-- ==== Sys2Proof/Word.lean ====
section
/-! DEFINITION. The words the block moves: nibbles, bytes, 16-bit values and byte sequences (20_memory.md R34). Each type
is the one place its width is written; the named widths of 00_scope.md R4 are read off the types. -/
namespace Sys2Proof

/-- A nibble, 0 to 15 (00_scope.md R6). -/
abbrev Nibble := BitVec 4

/-- A byte, 0 to 255 (00_scope.md R6). -/
abbrev Byte := BitVec 8

/-- A 16-bit value, unsigned (00_scope.md R6: nothing is signed). -/
abbrev Word := BitVec 16

/-- A byte sequence, first byte first (00_scope.md R6). -/
abbrev ByteSeq := List Byte

/-- The width of a bit vector, read off its type. -/
abbrev widthOf {w : Nat} (_ : BitVec w) : Nat := w

/-- `NIB_W`, the bits of a nibble: 4 (00_scope.md R4). -/
abbrev Config.nibW : Nat := widthOf (0 : Nibble)

/-- The bits of a byte: 8, and so `LEN_W` and `OP_W`, the widths of the length byte and the opcode byte (00_scope.md
section 5). -/
abbrev Config.byteW : Nat := widthOf (0 : Byte)

/-- `CRC_W`, the bits of the running CRC: 16 (00_scope.md R4). -/
abbrev Config.crcW : Nat := widthOf (0 : Word)

end Sys2Proof
end

