-- ==== Sys2Proof/Config.lean ====
section
/-! DEFINITION. The block's constants (00_scope.md R4), each named once, and the type and default of the lookup
table (R5). The widths `NIB_W`, `LEN_W`, `OP_W` and `CRC_W` stand in Word.lean, where the types need them. The spec leaves no value of the block open (R7, R181); the one open constant,
`versionOfReply`, belongs to the surrounding software alone. -/
namespace Sys2Proof

/-- The entries of `CRC.TABLE`, one per value of a nibble: sixteen (00_scope.md R4). -/
abbrev Config.tableSize : Nat := 2 ^ Config.nibW

/-- The sixteen 16-bit entries of `CRC.TABLE` (10_state.md R13). -/
abbrev CrcTable := Vector Word Config.tableSize

/-- What the typed decode of a version reply yields: "firmware/hardware version" (45_environment.md R133). Which bytes
they are the document does not say (DESIGN CHOICE, log entry 19). -/
structure VersionInfo where
  /-- The firmware version. -/
  firmware : ByteSeq
  /-- The hardware version. -/
  hardware : ByteSeq
  deriving DecidableEq, Repr

namespace Config

/-- The typed decode of a version reply's payload, or nothing where the payload is no version. Its layout is not given
(45_environment.md R133, 91_not_in_source.md N10): an open value of the surrounding software, which nothing evaluates
(log entry 19). -/
opaque versionOfReply : ByteSeq → Option VersionInfo

/-- `DELIM`, the first byte of every frame (00_scope.md R4). -/
abbrev delim : Byte := 0xFF#8

/-- `CRC_INIT`, the initial value of the running CRC (00_scope.md R4). -/
abbrev crcInit : Word := 0xFFFF#16

/-- `OVH_CMD`: a command frame is `N + 5` bytes long (00_scope.md R4, 30_encoding.md R50). -/
abbrev ovhCmd : Nat := 5

/-- `OVH_RSP`: a response frame is `N + 7` bytes long (00_scope.md R4, 30_encoding.md R51). -/
abbrev ovhRsp : Nat := 7

/-- `STATUS_W`, the bytes of a response frame's status, which stand between opcode and payload and are not counted in
`N` (00_scope.md R4, 30_encoding.md R51). -/
abbrev statusW : Nat := 2

/-- The bytes of a frame's checksum field, `CRC_W` in bytes (00_scope.md R4, 30_encoding.md R50, R51). -/
abbrev crcBytes : Nat := crcW / byteW

/-- `MAX_N`, the largest declared payload length, the most `ENC` takes (00_scope.md R4, 41_framer.md R87). -/
abbrev maxN : Nat := 248

/-- The largest value of the 8-bit length byte (`LEN_W`, 00_scope.md section 5). -/
abbrev maxLenByte : Nat := 2 ^ byteW - 1

/-- `SYN_CAP` = 255 + 7, the longest candidate frame (43_synchronizer.md R120). -/
abbrev synCap : Nat := maxLenByte + ovhRsp

/-- The largest power a set-power command sends, in centi-dBm (45_environment.md R135; 93_implementation_defined.md I6). -/
abbrev maxPower : Nat := 2700

/-- Centi-dBm in one dBm (45_environment.md R135). -/
abbrev centi : Nat := 100

/-- The offset of the RSSI byte in a tag report (45_environment.md R146; I6). -/
abbrev rssiOffset : Nat := 12

/-- The offset of the auxiliary data's bit count in a tag report (45_environment.md R147; I6). -/
abbrev auxBitsOffset : Nat := 24

/-- The offset of the EPC's bit count in a tag report (45_environment.md R148; I6). -/
abbrev epcBitsOffset : Nat := 27

/-- The bytes of either bit count, "a 16-bit big-endian length field" (45_environment.md R147, R148). -/
abbrev bitCountBytes : Nat := 2

/-- The bytes of a power value, "sent as 2 bytes big-endian" (45_environment.md R135). -/
abbrev powerBytes : Nat := 2

/-- The default of the parameter `CRC_TABLE`: entry `i` is the carry-less product of `i` and 0x1021 (00_scope.md R5).
PRESUMED: the spec itself takes these sixteen values from general knowledge (log entry 3, which says why holding the
table in State is safe and where this default is not). -/
def defaultCrcTable : CrcTable :=
  #v[0x0000#16, 0x1021#16, 0x2042#16, 0x3063#16, 0x4084#16, 0x50A5#16, 0x60C6#16, 0x70E7#16,
     0x8108#16, 0x9129#16, 0xA14A#16, 0xB16B#16, 0xC18C#16, 0xD1AD#16, 0xE1CE#16, 0xF1EF#16]

end Config
end Sys2Proof
end

