-- ==== Sys2Proof/Machine/Operands.lean ====
section
/-! DEFINITION. Operand forms: the pieces of bytes and words (00_scope.md R6), big-endian fields (20_memory.md R31,
30_encoding.md R52), slices, and reading and writing a buffer (20_memory.md R35, R36). -/
namespace Sys2Proof.Machine

/-- `hi4(b) = b[7:4]`, the nibble that enters the CRC first (00_scope.md R6, 30_encoding.md R57). -/
def hi4 (b : Byte) : Nibble := b.extractLsb' 4 4

/-- `lo4(b) = b[3:0]`. -/
def lo4 (b : Byte) : Nibble := b.extractLsb' 0 4

/-- `hi8(v) = v[15:8]`, the byte at the lower offset of a 16-bit field (30_encoding.md R52). -/
def hi8 (v : Word) : Byte := v.extractLsb' 8 8

/-- `lo8(v) = v[7:0]`. -/
def lo8 (v : Word) : Byte := v.extractLsb' 0 8

/-- The 16-bit value of two bytes, the more significant first: `s[i] * 256 + s[i+1]` (00_scope.md R6, 20_memory.md
R31). -/
def be16 (high low : Byte) : Word := BitVec.ofNat 16 (high.toNat * 256 + low.toNat)

/-- The half-open slice `s[i..j)` (00_scope.md R6). -/
def slice (s : ByteSeq) (i j : Nat) : ByteSeq := (s.take j).drop i

/-- A byte sequence as one big-endian unsigned value (20_memory.md R31, R35). -/
def beNat (s : ByteSeq) : Nat := s.foldl (fun v b => v * 256 + b.toNat) 0

/-- `MemRead(buf, off, n)`: the `n` bytes from `off` as one big-endian unsigned value, and no value at all where the
range leaves the buffer (20_memory.md R35). -/
def memRead (buf : ByteSeq) (off n : Nat) : Option Nat :=
  if off + n ≤ buf.length then
    some (beNat (slice buf off (off + n)))
  else none

/-- `MemWrite(buf, off, n, v)`: bytes `off` to `off + n - 1` set to the big-endian bytes of `v` (20_memory.md R36). -/
def memWrite (buf : ByteSeq) (off : Nat) : Nat → Nat → ByteSeq
  | 0, _ => buf
  | n + 1, v => memWrite (buf.set off (BitVec.ofNat 8 (v / 256 ^ n))) (off + 1) n v

/-- Bytes written one after another from `off` on, each by its own `MemWrite` (41_framer.md R86). -/
def memWriteAll (buf : ByteSeq) (off : Nat) : ByteSeq → ByteSeq
  | [] => buf
  | b :: rest => memWriteAll (memWrite buf off 1 b.toNat) (off + 1) rest

end Sys2Proof.Machine
end

