-- ==== Sys2Proof/Machine/Checksum.lean ====
section
/-! DEFINITION. The CRC computation: the nibble step that everything rests on, the fold over bytes, the document's
`checksum`, and the bit-serial form (40_crc.md). Everything takes the table as an argument (00_scope.md R5). -/
namespace Sys2Proof.Machine

/-- `c[15:12]`, which chooses the table entry (40_crc.md R71). -/
def topNibble (c : Word) : Nibble := c.extractLsb' (Config.crcW - Config.nibW) Config.nibW

/-- `CRC.TABLE[i]` (10_state.md R13). -/
def tableEntry (t : CrcTable) (i : Nibble) : Word := t.get i.toFin

/-- `step(c, n)`: the 20-bit value `(c << 4) | n`, XORed with the entry chosen by the top nibble of `c` as it was
before the shift, cut to 16 bits (40_crc.md R71; decision D5, conflict C6). -/
def crcStep (t : CrcTable) (c : Word) (n : Nibble) : Word :=
  let wide := Config.crcW + Config.nibW
  ((((c.setWidth wide) <<< Config.nibW) ||| n.setWidth wide) ^^^
    (tableEntry t (topNibble c)).setWidth wide).setWidth Config.crcW

/-- One byte: the high nibble first, then the low nibble (20_memory.md R32, 40_crc.md R74). -/
def crcByteStep (t : CrcTable) (c : Word) (b : Byte) : Word := crcStep t (crcStep t c (hi4 b)) (lo4 b)

/-- `fold(c, s)`, the bytes in increasing offset order (40_crc.md R77 (ii)). -/
def crcFold (t : CrcTable) (c : Word) (s : ByteSeq) : Word := s.foldl (crcByteStep t) c

/-- `checksum(bytes, off, n)`; no value where the range leaves the buffer (40_crc.md R76, decision D11). -/
def checksum (t : CrcTable) (bytes : ByteSeq) (off n : Nat) : Option Word :=
  if off + n ≤ bytes.length then some (crcFold t Config.crcInit (slice bytes off (off + n))) else none

/-- `bitstep(c, d)`: the bit-serial form the spec gives for the default table (40_crc.md R78). -/
def bitStep (c : Word) (d : Bool) : Word :=
  ((c <<< 1) ||| (if d then 1#16 else 0#16)) ^^^ (if c.msb then 0x1021#16 else 0#16)

end Sys2Proof.Machine
end

