-- ==== Sys2Proof/Machine/Frames.lean ====
section
/-! DEFINITION. The two wire frame formats as values (30_encoding.md R50, R51), the encoder's construction of a command
frame byte by byte (41_framer.md R86), and the response-frame constructor of 42_deframer.md section 2. -/
namespace Sys2Proof.Machine

/-- A 16-bit value as its two bytes, the more significant first (30_encoding.md R52). -/
def be16Bytes (v : Word) : ByteSeq := [hi8 v, lo8 v]

/-- The bytes of a command frame that its checksum covers: length, opcode, payload; not the delimiter
(30_encoding.md R53, conflict C8). -/
def commandCovered (opcode : Byte) (payload : ByteSeq) : ByteSeq :=
  BitVec.ofNat 8 payload.length :: opcode :: payload

/-- Format `CMD` as a value (30_encoding.md R50, 41_framer.md R86: "As a value"). -/
def commandFrame (t : CrcTable) (opcode : Byte) (payload : ByteSeq) : ByteSeq :=
  Config.delim :: (commandCovered opcode payload ++
    be16Bytes (crcFold t Config.crcInit (commandCovered opcode payload)))

/-- The encoder's construction, each offset of a new buffer of `N + 5` bytes written by `MemWrite`
(41_framer.md R86). No frame where the payload is longer than 248 bytes (R87). The new buffer's bytes before they are
written are zeros here; R36 has each of them written exactly once, so no result shows them. -/
def buildCommandFrame (t : CrcTable) (opcode : Byte) (payload : ByteSeq) : Option ByteSeq :=
  let n := payload.length
  if n > Config.maxN then none
  else
    let new := List.replicate (n + Config.ovhCmd) (0#8)
    let head := memWrite (memWrite (memWrite new 0 1 Config.delim.toNat) 1 1 n) 2 1 opcode.toNat
    let body := memWriteAll head 3 payload
    (checksum t body 1 (n + 2)).map fun c => memWrite body (3 + n) Config.crcBytes c.toNat

/-- The bytes of a response frame that its checksum covers: length, opcode, status, payload (30_encoding.md R53). -/
def responseCovered (opcode : Byte) (status : Word) (payload : ByteSeq) : ByteSeq :=
  BitVec.ofNat 8 payload.length :: opcode :: (be16Bytes status ++ payload)

/-- Format `RSP` with the given checksum field, right or wrong (30_encoding.md R51; 43_synchronizer.md R121 speaks of
well-formed response frames with "checksum right or wrong"). -/
def responseFrame (opcode : Byte) (status : Word) (payload : ByteSeq) (checksumField : Word) : ByteSeq :=
  Config.delim :: (responseCovered opcode status payload ++ be16Bytes checksumField)

/-- `rsp(op, st, d)`: the response frame whose checksum is right, a function for stating laws, no operation of the
block (42_deframer.md section 2). -/
def rsp (t : CrcTable) (opcode : Byte) (status : Word) (payload : ByteSeq) : ByteSeq :=
  responseFrame opcode status payload (crcFold t Config.crcInit (responseCovered opcode status payload))

end Sys2Proof.Machine
end

