-- ==== Sys2Proof/Syntax.lean ====
section
/-! DEFINITION. The instructions: one constructor per row of spec/opcode_table.json, ten operations (30_encoding.md
R58), six reserved select codes (R59) and the two wire frame formats (R50, R51). -/
namespace Sys2Proof

/-- What can be issued to the block. Operands are typed values that travel beside the select code (30_encoding.md R58). -/
inductive Instr where
  /-- `CRC.INIT` (40_crc.md R72). -/
  | crcInit
  /-- `CRC.NIB n` (40_crc.md R73). -/
  | crcNib (n : Nibble)
  /-- `CRC.BYTE b` (40_crc.md R74). -/
  | crcByte (b : Byte)
  /-- `CRC.READ` (40_crc.md R75). -/
  | crcRead
  /-- `CRC.SUM bytes, off, n` (40_crc.md R76). -/
  | crcSum (bytes : ByteSeq) (off n : Nat)
  /-- `ENC opcode, payload`; the payload may be absent (41_framer.md R85). -/
  | enc (opcode : Byte) (payload : Option ByteSeq)
  /-- `VAL frame` (42_deframer.md R95). -/
  | val (frame : ByteSeq)
  /-- `RX.BYTE b` (43_synchronizer.md R110). -/
  | rxByte (b : Byte)
  /-- `SYN.CLEAR` (43_synchronizer.md R115). -/
  | synClear
  /-- `RESET` (70_reset_and_hazards.md R180). -/
  | reset
  /-- Reserved select code 0x9 (30_encoding.md R59). -/
  | reserved9
  /-- Reserved select code 0xA (30_encoding.md R59). -/
  | reservedA
  /-- Reserved select code 0xB (30_encoding.md R59). -/
  | reservedB
  /-- Reserved select code 0xC (30_encoding.md R59). -/
  | reservedC
  /-- Reserved select code 0xD (30_encoding.md R59). -/
  | reservedD
  /-- Reserved select code 0xE (30_encoding.md R59). -/
  | reservedE
  /-- A command frame travelling to the device (30_encoding.md R50). Delimiter, length and checksum follow from the
  opcode and the payload. -/
  | frameCmd (opcode : Byte) (payload : ByteSeq)
  /-- A response frame travelling to the host (30_encoding.md R51), its checksum field right or wrong. -/
  | frameRsp (opcode : Byte) (status : Word) (payload : ByteSeq) (checksum : Word)
  deriving DecidableEq, Repr

end Sys2Proof
end

