-- ==== Sys2Proof/WellFormed.lean ====
section
/-! DEFINITION. Well-formed instructions. Every operand value of an operation's types is well formed (00_scope.md R7:
an operation has an outcome on every operand value); a wire frame's payload must fit its format's length byte. -/
namespace Sys2Proof

/-- The checks: a command frame's `N` is 0 to 248 (30_encoding.md R50), a response frame's is whatever the length byte
can say, 0 to 255 (30_encoding.md R55, 43_synchronizer.md R113). A payload too long for `ENC` and a range that leaves
its buffer are not ill formed: the operation is refused (60_exceptions.md R163). -/
def Instr.wellFormed : Instr → Bool
  | .crcInit => true
  | .crcNib _ => true
  | .crcByte _ => true
  | .crcRead => true
  | .crcSum _ _ _ => true
  | .enc _ _ => true
  | .val _ => true
  | .rxByte _ => true
  | .synClear => true
  | .reset => true
  | .reserved9 => true
  | .reservedA => true
  | .reservedB => true
  | .reservedC => true
  | .reservedD => true
  | .reservedE => true
  | .frameCmd _ payload => decide (payload.length ≤ Config.maxN)
  | .frameRsp _ _ payload _ => decide (payload.length ≤ Config.maxLenByte)

end Sys2Proof
end

