-- ==== Sys2Proof/Decode.lean ====
section
/-! DEFINITION. What can stand on the block's issue port, the decoder (total, rejecting by name) and the encoder. A
select code of 4 bits with typed operands beside it (30_encoding.md R58), or a wire frame with its direction of travel
(R54). The port itself is the model's (DESIGN CHOICE, log entry 1): the document has no command port. -/
namespace Sys2Proof

/-- Operands by class (30_encoding.md R58). -/
inductive Operands where
  /-- Class `Z`: none. -/
  | z
  /-- Class `N4`: one 4-bit value. -/
  | n4 (n : Nibble)
  /-- Class `B8`: one 8-bit value. -/
  | b8 (b : Byte)
  /-- Class `RNG`: a byte sequence of any length with two non-negative integers. -/
  | rng (bytes : ByteSeq) (off n : Nat)
  /-- Class `OPP`: one 8-bit value and an optional byte sequence. -/
  | opp (opcode : Byte) (payload : Option ByteSeq)
  /-- Class `FRM`: one byte sequence of any length, including empty. -/
  | frm (frame : ByteSeq)
  deriving DecidableEq, Repr

/-- The direction of travel of a wire frame, which alone tells the two formats apart (30_encoding.md R54). -/
inductive Direction where
  /-- Host to device: a command frame. -/
  | toDevice
  /-- Device to host: a response frame. -/
  | toHost
  deriving DecidableEq, Repr

/-- One thing issued to the block. -/
inductive Issue where
  /-- An operation: its select code and the operands beside it (30_encoding.md R58). -/
  | op (opsel : BitVec 4) (operands : Operands)
  /-- A wire frame, byte by byte, with its direction (30_encoding.md R54). -/
  | wire (direction : Direction) (bytes : ByteSeq)
  deriving DecidableEq, Repr

/-- Why an issue is no instruction. -/
inductive DecodeError where
  /-- The operands are not of the select code's class (30_encoding.md R58). -/
  | operandClass (opsel : BitVec 4)
  /-- Bytes towards the device that are not in format `CMD` (30_encoding.md R50). -/
  | notACommandFrame
  /-- Bytes towards the host that are not in format `RSP` (30_encoding.md R51). -/
  | notAResponseFrame
  deriving DecidableEq, Repr

/-- The operation a select code and its operands name. A reserved code is the reserved operation whatever operands
stand beside it (30_encoding.md R59: "Issuing one gives refuse(ReservedOperation)"; log entry 10). -/
def decodeOperation (opsel : BitVec 4) (operands : Operands) : Except DecodeError Instr :=
  match opsel, operands with
  | 0x0#4, .z => .ok .crcInit
  | 0x1#4, .n4 n => .ok (.crcNib n)
  | 0x2#4, .b8 b => .ok (.crcByte b)
  | 0x3#4, .z => .ok .crcRead
  | 0x4#4, .rng bytes off n => .ok (.crcSum bytes off n)
  | 0x5#4, .opp opcode payload => .ok (.enc opcode payload)
  | 0x6#4, .frm frame => .ok (.val frame)
  | 0x7#4, .b8 b => .ok (.rxByte b)
  | 0x8#4, .z => .ok .synClear
  | 0x9#4, _ => .ok .reserved9
  | 0xA#4, _ => .ok .reservedA
  | 0xB#4, _ => .ok .reservedB
  | 0xC#4, _ => .ok .reservedC
  | 0xD#4, _ => .ok .reservedD
  | 0xE#4, _ => .ok .reservedE
  | 0xF#4, .z => .ok .reset
  | code, _ => .error (.operandClass code)

/-- Bytes in format `CMD`: delimiter, `N` of at most 248, opcode, `N` payload bytes, and the checksum of what stands
between delimiter and checksum (30_encoding.md R50). -/
def decodeCommandFrame (t : CrcTable) (bytes : ByteSeq) : Except DecodeError Instr :=
  match bytes with
  | d :: n :: opcode :: rest =>
    let payload := rest.take n.toNat
    let stored := rest.drop n.toNat
    if d = Config.delim ∧ n.toNat ≤ Config.maxN ∧ bytes.length = n.toNat + Config.ovhCmd ∧
        stored = Machine.be16Bytes (Machine.crcFold t Config.crcInit (n :: opcode :: payload)) then
      .ok (.frameCmd opcode payload)
    else .error .notACommandFrame
  | _ => .error .notACommandFrame

/-- Bytes in format `RSP`: delimiter, `N`, opcode, two status bytes, `N` payload bytes, and two checksum bytes, which
are taken as they stand (30_encoding.md R51; whether they are right is for `VAL` to say). -/
def decodeResponseFrame (bytes : ByteSeq) : Except DecodeError Instr :=
  match bytes with
  | d :: n :: opcode :: rest =>
    if d = Config.delim ∧ bytes.length = n.toNat + Config.ovhRsp then
      match rest.drop (Config.statusW + n.toNat) with
      | [checkHigh, checkLow] =>
        .ok (.frameRsp opcode (BitVec.ofNat 16 (Machine.beNat (rest.take Config.statusW)))
          ((rest.drop Config.statusW).take n.toNat) (Machine.be16 checkHigh checkLow))
      | _ => .error .notAResponseFrame
    else .error .notAResponseFrame
  | _ => .error .notAResponseFrame

/-- The decoder: the instruction an issue is, or the reason it is none. -/
def decode (t : CrcTable) : Issue → Except DecodeError Instr
  | .op opsel operands => decodeOperation opsel operands
  | .wire .toDevice bytes => decodeCommandFrame t bytes
  | .wire .toHost bytes => decodeResponseFrame bytes

/-- The encoder, from the table of 30_encoding.md R58, R59 and the formats of R50, R51. -/
def encode (t : CrcTable) : Instr → Issue
  | .crcInit => .op 0x0#4 .z
  | .crcNib n => .op 0x1#4 (.n4 n)
  | .crcByte b => .op 0x2#4 (.b8 b)
  | .crcRead => .op 0x3#4 .z
  | .crcSum bytes off n => .op 0x4#4 (.rng bytes off n)
  | .enc opcode payload => .op 0x5#4 (.opp opcode payload)
  | .val frame => .op 0x6#4 (.frm frame)
  | .rxByte b => .op 0x7#4 (.b8 b)
  | .synClear => .op 0x8#4 .z
  | .reset => .op 0xF#4 .z
  | .reserved9 => .op 0x9#4 .z
  | .reservedA => .op 0xA#4 .z
  | .reservedB => .op 0xB#4 .z
  | .reservedC => .op 0xC#4 .z
  | .reservedD => .op 0xD#4 .z
  | .reservedE => .op 0xE#4 .z
  | .frameCmd opcode payload => .wire .toDevice (Machine.commandFrame t opcode payload)
  | .frameRsp opcode status payload checksum =>
    .wire .toHost (Machine.responseFrame opcode status payload checksum)

/-- The operands of a select code's class with every value zero, empty or absent: what the opcode table's rows, which
give operands no bits, stand for. -/
def zeroOperands (opsel : Nat) : Operands :=
  match opsel with
  | 0x1 => .n4 0
  | 0x2 => .b8 0
  | 0x4 => .rng [] 0 0
  | 0x5 => .opp 0 none
  | 0x6 => .frm []
  | 0x7 => .b8 0
  | _ => .z

/-- The first `count` bytes of a number whose byte 0 is its least significant. -/
def bytesOfNat (w : Nat) : Nat → ByteSeq
  | 0 => []
  | count + 1 => BitVec.ofNat 8 w :: bytesOfNat (w / 256) count

/-- The issue an opcode-table word is (log entry 8): a number below 16 is a select code with zero operands; a first
byte of 0xFF opens a wire frame, taken as one travelling to the host (only response frames come INTO the block,
30_encoding.md R54), as long as its own length byte says, its bytes above `nbits` zero; anything else is no row, and
stands as wire bytes that are no frame. -/
def tableIssue (nbits w : Nat) : Issue :=
  let bits := w % 2 ^ nbits
  if bits < 16 then .op (BitVec.ofNat 4 bits) (zeroOperands bits)
  else if bits % 256 = Config.delim.toNat then .wire .toHost (bytesOfNat bits (bits / 256 % 256 + Config.ovhRsp))
  else .wire .toHost (bytesOfNat bits 1)

/-- The instruction the decoder reads from an opcode-table word. The table decides only whether a command frame's
checksum is right, and no table word is a command frame, so the default stands here without effect. -/
def decodeTableWord (nbits w : Nat) : Option Instr := (decode Config.defaultCrcTable (tableIssue nbits w)).toOption

end Sys2Proof
end

