-- ==== Sys2Proof/Machine/State.lean ====
section
/-! DEFINITION. The state, the block's outputs, and the reasons a step can stop. `crcAcc`, `synBuf` and `crcTable` are
the block's own (10_state.md R10, R13); `pending` and `log` are the transition system's input and output, which
R19 keeps apart from the block's state (log entries 1 and 2). -/
namespace Sys2Proof.Machine

/-- The three error kinds of `VAL`; an error carries its kind and nothing else (60_exceptions.md R160, R162). -/
inductive FrameError where
  /-- Check (a) failed: no byte 0, or byte 0 is not the delimiter. -/
  | badDelimiter
  /-- Check (b) failed: the length is not `byte1 + 7`. -/
  | lengthMismatch
  /-- Check (c) failed: the stored checksum is not the computed one. -/
  | crcMismatch
  deriving DecidableEq, Repr

/-- The fields `VAL` exposes of a frame that passed (42_deframer.md R99, decision D7). -/
structure ValidatedFrame where
  /-- The whole byte sequence unchanged. -/
  frame : ByteSeq
  /-- `N = frame[1]`. -/
  n : Byte
  /-- `frame[2]`. -/
  opcode : Byte
  /-- `be16(frame, 3)`. -/
  status : Word
  /-- `frame[5..5+N)`. -/
  payload : ByteSeq
  /-- `frame[3..5+N)`, the payload region, status first. -/
  region : ByteSeq
  deriving DecidableEq, Repr

/-- The result of `VAL`. -/
abbrev ValResult := Except FrameError ValidatedFrame

/-- Why an operation is refused (60_exceptions.md R163). -/
inductive RefuseReason where
  /-- `CRC.SUM` over a range that leaves its buffer. -/
  | rangeOutOfBounds
  /-- `ENC` with a payload longer than 248 bytes. -/
  | payloadTooLong
  /-- A select code 0x9 to 0xE. -/
  | reservedOperation
  deriving DecidableEq, Repr

/-- What an operation that completed returns (30_encoding.md R58, column Result). -/
inductive Value where
  /-- Nothing. -/
  | none
  /-- A 16-bit value. -/
  | word (v : Word)
  /-- A byte sequence. -/
  | bytes (s : ByteSeq)
  /-- A validated frame. -/
  | validated (v : ValidatedFrame)
  deriving DecidableEq, Repr

/-- The outcome of an operation, exactly one per operation (00_scope.md R3, section 4). -/
inductive OpOutcome where
  /-- `ok(v)`. -/
  | ok (v : Value)
  /-- `raise FrameError.<kind>`, a value returned to the caller. -/
  | raise (e : FrameError)
  /-- `refuse(<reason>)`: no state changed, no event emitted (60_exceptions.md R163; log entry 4). -/
  | refuse (r : RefuseReason)
  deriving DecidableEq, Repr

/-- The block's events (00_scope.md section 4). -/
inductive Event where
  /-- One command frame handed to the transport as one contiguous write (41_framer.md R88). -/
  | tx (bytes : ByteSeq)
  /-- One candidate frame completed by `SYN`, with the result of `VAL` on it (43_synchronizer.md R114). -/
  | deliver (frame : ByteSeq) (result : ValResult)
  deriving DecidableEq, Repr

/-- One observation: "the observation of a run is the ordered list of its events and outcomes" (00_scope.md section 4). -/
inductive Observation where
  /-- An event. -/
  | event (e : Event)
  /-- The outcome of an operation. -/
  | outcome (o : OpOutcome)
  deriving DecidableEq, Repr

/-- A fault of the machine: there is none. "The block never stops, halts or locks up because of an error"
(60_exceptions.md R170), and it has no trap mechanism (log entry 12). -/
inductive Fault where
  deriving DecidableEq, Repr

/-- Why a step has no meaning for what is issued. Each of them is safe: the model stops. -/
inductive Refusal where
  /-- Raised by `exec` alone, for an instruction whose meaning is not written. No arm of this model raises it. Safe. -/
  | notModelled (mnemonic : String)
  /-- Raised by `step` when what is issued is no instruction: operands of another class, or wire bytes that are no
  frame of their direction. The spec gives operations on "every operand value of the stated types" only (00_scope.md
  R7); log entry 5. Safe. -/
  | notAnInstruction (why : DecodeError)
  deriving DecidableEq, Repr

/-- The machine. -/
structure State where
  /-- `CRC.ACC`, the running CRC of the streaming interface (10_state.md R12). -/
  crcAcc : Word
  /-- `SYN.BUF`, the bytes of the frame being collected, first byte first (10_state.md R14). -/
  synBuf : ByteSeq
  /-- `CRC.TABLE`, constant (10_state.md R13). -/
  crcTable : CrcTable
  /-- What has been issued and not yet taken, in the one total order of 20_memory.md R46 (log entry 1). -/
  pending : List Issue
  /-- The events and outcomes so far, oldest first (00_scope.md section 4; log entry 2). -/
  log : List Observation
  deriving DecidableEq, Repr

/-- The machine right after reset, nothing issued and nothing observed yet (10_state.md R21, 70_reset_and_hazards.md
R181; the table's default, 00_scope.md R5, is PRESUMED, log entry 3). -/
def State.reset : State where
  crcAcc := Config.crcInit
  synBuf := []
  crcTable := Config.defaultCrcTable
  pending := []
  log := []

end Sys2Proof.Machine
end

