-- ==== Sys2Proof/Machine/Ops.lean ====
section
/-! DEFINITION. The named operations over the state. The block has no exceptions to take: an error result "changes
nothing in the block" and control goes nowhere (60_exceptions.md R168, R170). What stands in that place is the one
shared way in which every operation ends: its events and then its outcome are recorded (`State.record`). -/
namespace Sys2Proof.Machine

/-- `CRC.ACC <- v`. -/
def State.setAcc (s : State) (v : Word) : State := { s with crcAcc := v }

/-- `SYN.BUF <- buf`. -/
def State.setBuf (s : State) (buf : ByteSeq) : State := { s with synBuf := buf }

/-- The issue port after its first issue has been taken. -/
def State.setPending (s : State) (rest : List Issue) : State := { s with pending := rest }

/-- An operation ends: its events, in order, and then its one outcome are observed (00_scope.md R3; the order inside
one operation is the model's, log entry 18). -/
def State.record (s : State) (events : List Event) (o : OpOutcome) : State :=
  { s with log := s.log ++ (events.map Observation.event ++ [Observation.outcome o]) }

/-- `ok(v)` with the given events. -/
def succeed (s : State) (events : List Event) (v : Value) : Host.Outcome State Fault Refusal :=
  .next (s.record events (.ok v))

/-- `raise FrameError.<kind>`: a value returned to the caller, nothing else changes (60_exceptions.md R160, R168). -/
def raiseError (s : State) (e : FrameError) : Host.Outcome State Fault Refusal :=
  .next (s.record [] (.raise e))

/-- `refuse(<reason>)`: no state of the block changes and no event is emitted; the reason is reported
(60_exceptions.md R163; log entry 4). -/
def refuse (s : State) (r : RefuseReason) : Host.Outcome State Fault Refusal :=
  .next (s.record [] (.refuse r))

end Sys2Proof.Machine
end

