-- ==== Sys2Proof/Machine/Crc.lean ====
section
/-! DEFINITION. The `CRC` unit: `CRC.INIT`, `CRC.NIB`, `CRC.BYTE`, `CRC.READ`, `CRC.SUM` (40_crc.md). -/
namespace Sys2Proof.Machine

/-- `CRC.INIT` (40_crc.md R72). -/
def execCrcInit (s : State) : Host.Outcome State Fault Refusal :=
  succeed (s.setAcc Config.crcInit) [] .none

/-- `CRC.NIB n` (40_crc.md R73). -/
def execCrcNib (n : Nibble) (s : State) : Host.Outcome State Fault Refusal :=
  succeed (s.setAcc (crcStep s.crcTable s.crcAcc n)) [] .none

/-- `CRC.BYTE b` (40_crc.md R74). -/
def execCrcByte (b : Byte) (s : State) : Host.Outcome State Fault Refusal :=
  succeed (s.setAcc (crcByteStep s.crcTable s.crcAcc b)) [] .none

/-- `CRC.READ` (40_crc.md R75). -/
def execCrcRead (s : State) : Host.Outcome State Fault Refusal :=
  succeed s [] (.word s.crcAcc)

/-- `CRC.SUM bytes, off, n` (40_crc.md R76). `CRC.ACC` is neither read nor written (10_state.md R12). -/
def execCrcSum (bytes : ByteSeq) (off n : Nat) (s : State) : Host.Outcome State Fault Refusal :=
  match checksum s.crcTable bytes off n with
  | some c => succeed s [] (.word c)
  | none => refuse s .rangeOutOfBounds

end Sys2Proof.Machine
end

