-- ==== Sys2Proof/Machine/Deframer.lean ====
section
/-! DEFINITION. The `VAL` unit (42_deframer.md). -/
namespace Sys2Proof.Machine

/-- `VAL` as a function: the three checks in their order and no fourth (42_deframer.md R95 to R102). A sequence with a
delimiter that has no length byte, opcode or whole status is shorter than the least `N + 7` and fails check (b) (R97,
R101). -/
def validate (t : CrcTable) (f : ByteSeq) : ValResult :=
  if f[0]? ≠ some Config.delim then .error .badDelimiter
  else
    match f[1]?, f[2]?, memRead f 3 Config.statusW with
    | some n, some opcode, some status =>
      if f.length ≠ n.toNat + Config.ovhRsp then .error .lengthMismatch
      else if checksum t f 1 (n.toNat + 2 + Config.statusW) ≠
          (memRead f (n.toNat + 3 + Config.statusW) Config.crcBytes).map (BitVec.ofNat 16) then
        .error .crcMismatch
      else
        .ok { frame := f, n := n, opcode := opcode, status := BitVec.ofNat 16 status,
              payload := slice f (3 + Config.statusW) (3 + Config.statusW + n.toNat),
              region := slice f 3 (3 + Config.statusW + n.toNat) }
    | _, _, _ => .error .lengthMismatch

/-- `VAL frame`: the result goes to the caller and nothing of it is kept (42_deframer.md R95, R106). -/
def execVal (frame : ByteSeq) (s : State) : Host.Outcome State Fault Refusal :=
  match validate s.crcTable frame with
  | .ok v => succeed s [] (.validated v)
  | .error e => raiseError s e

end Sys2Proof.Machine
end

