-- ==== Sys2Proof/Machine/Framer.lean ====
section
/-! DEFINITION. The `ENC` unit (41_framer.md). -/
namespace Sys2Proof.Machine

/-- A command frame is built and handed to the transport, or the payload is too long (41_framer.md R86 to R88). No
state of the block is read but the table, and none is written (R85). -/
def sendCommand (opcode : Byte) (payload : ByteSeq) (s : State) : Host.Outcome State Fault Refusal :=
  match buildCommandFrame s.crcTable opcode payload with
  | some frame => succeed s [.tx frame] (.bytes frame)
  | none => refuse s .payloadTooLong

/-- `ENC opcode, payload`; an absent payload is the empty one (41_framer.md R85). -/
def execEnc (opcode : Byte) (payload : Option ByteSeq) (s : State) : Host.Outcome State Fault Refusal :=
  sendCommand opcode (payload.getD []) s

end Sys2Proof.Machine
end

