-- ==== Sys2Proof/Machine/Synchronizer.lean ====
section
/-! DEFINITION. The `SYN` unit: `RX.BYTE`, `SYN.CLEAR` (43_synchronizer.md) and the views of `SYN.BUF` (10_state.md
R15). -/
namespace Sys2Proof.Machine

/-- The phase `SYN.ST` (10_state.md R15, 43_synchronizer.md R111). -/
inductive Phase where
  /-- Between frames, looking for a delimiter. -/
  | hunt
  /-- Delimiter seen, the next byte is the length. -/
  | len
  /-- Collecting until `SYN.BUF[1] + 7` bytes are held. -/
  | body
  deriving DecidableEq, Repr

/-- `SYN.CNT` (10_state.md R15). -/
def synCnt (buf : ByteSeq) : Nat := buf.length

/-- `SYN.ST` (10_state.md R15). -/
def synPhase (buf : ByteSeq) : Phase :=
  match synCnt buf with
  | 0 => .hunt
  | 1 => .len
  | _ => .body

/-- `SYN.NEED`, the number of bytes still missing; undefined below two bytes (10_state.md R15). -/
def synNeed (buf : ByteSeq) : Option Int :=
  match buf with
  | _ :: n :: _ => some ((n.toNat : Int) + Config.ovhRsp - synCnt buf)
  | _ => none

/-- What one arriving byte does to `SYN.BUF`, and the event it completes if any (43_synchronizer.md R110: HUNT R112,
LEN R113, BODY R114). -/
def synTake (t : CrcTable) (buf : ByteSeq) (b : Byte) : ByteSeq × List Event :=
  match buf with
  | [] => if b = Config.delim then ([b], []) else ([], [])
  | [d] => ([d, b], [])
  | d :: n :: rest =>
    let candidate := d :: n :: (rest ++ [b])
    if candidate.length = n.toNat + Config.ovhRsp then
      ([], [.deliver candidate (validate t candidate)])
    else (candidate, [])

/-- The state after one arriving byte has been taken (43_synchronizer.md R110). -/
def State.rxByte (s : State) (b : Byte) : State :=
  (s.setBuf (synTake s.crcTable s.synBuf b).1).record (synTake s.crcTable s.synBuf b).2 (.ok .none)

/-- `RX.BYTE b` (43_synchronizer.md R110). -/
def execRxByte (b : Byte) (s : State) : Host.Outcome State Fault Refusal := .next (s.rxByte b)

/-- `SYN.CLEAR` (43_synchronizer.md R115). -/
def execSynClear (s : State) : Host.Outcome State Fault Refusal := succeed (s.setBuf []) [] .none

end Sys2Proof.Machine
end

