-- ==== Sys2Proof/Machine/System.lean ====
section
/-! DEFINITION. `RESET` (70_reset_and_hazards.md R180) and the reserved select codes (30_encoding.md R59). -/
namespace Sys2Proof.Machine

/-- `RESET`: a partly collected frame is discarded without an event; the table is unaffected (70_reset_and_hazards.md
R180). What is issued after it is still to come, and what was observed before it has been observed: the port and the
log are no state of the block (log entries 1 and 2). -/
def execReset (s : State) : Host.Outcome State Fault Refusal :=
  succeed ((s.setAcc Config.crcInit).setBuf []) [] .none

/-- Reserved select code 0x9 (30_encoding.md R59). -/
def execReserved9 (s : State) : Host.Outcome State Fault Refusal := refuse s .reservedOperation

/-- Reserved select code 0xA (30_encoding.md R59). -/
def execReservedA (s : State) : Host.Outcome State Fault Refusal := refuse s .reservedOperation

/-- Reserved select code 0xB (30_encoding.md R59). -/
def execReservedB (s : State) : Host.Outcome State Fault Refusal := refuse s .reservedOperation

/-- Reserved select code 0xC (30_encoding.md R59). -/
def execReservedC (s : State) : Host.Outcome State Fault Refusal := refuse s .reservedOperation

/-- Reserved select code 0xD (30_encoding.md R59). -/
def execReservedD (s : State) : Host.Outcome State Fault Refusal := refuse s .reservedOperation

/-- Reserved select code 0xE (30_encoding.md R59). -/
def execReservedE (s : State) : Host.Outcome State Fault Refusal := refuse s .reservedOperation

end Sys2Proof.Machine
end

