-- ==== Sys2Proof/Machine/Wire.lean ====
section
/-! DEFINITION. The two wire frame formats as things that happen to the block (30_encoding.md R50, R51, R54). -/
namespace Sys2Proof.Machine

/-- The bytes arriving one after another: the pseudo-operation `RX.BYTES` (30_encoding.md R62). -/
def State.rxBytes (s : State) (bytes : ByteSeq) : State := bytes.foldl State.rxByte s

/-- A command frame travels to the device. A command frame is "the output of ENC" (30_encoding.md R50) and the block
has no other way to send one (R54), so its being sent is what `ENC` does: the frame is built and handed to the
transport (DESIGN CHOICE, log entry 6). -/
def execFrameCmd (opcode : Byte) (payload : ByteSeq) (s : State) : Host.Outcome State Fault Refusal :=
  sendCommand opcode payload s

/-- A response frame travels to the host: its bytes arrive in offset order, one `RX.BYTE` each (30_encoding.md R54,
R62; 43_synchronizer.md R110; DESIGN CHOICE, log entry 7). -/
def execFrameRsp (opcode : Byte) (status : Word) (payload : ByteSeq) (checksumField : Word) (s : State) :
    Host.Outcome State Fault Refusal :=
  .next (s.rxBytes (responseFrame opcode status payload checksumField))

end Sys2Proof.Machine
end

