-- ==== Sys2Proof/Machine/Dispatch.lean ====
section
/-! DEFINITION. One arm per instruction. -/
namespace Sys2Proof.Machine

def exec (i : Instr) (s : State) : Host.Outcome State Fault Refusal :=
  match i with
  | .crcInit => Sys2Proof.Machine.execCrcInit s
  | .crcNib n => Sys2Proof.Machine.execCrcNib n s
  | .crcByte b => Sys2Proof.Machine.execCrcByte b s
  | .crcRead => Sys2Proof.Machine.execCrcRead s
  | .crcSum bytes off n => Sys2Proof.Machine.execCrcSum bytes off n s
  | .enc opcode payload => Sys2Proof.Machine.execEnc opcode payload s
  | .val frame => Sys2Proof.Machine.execVal frame s
  | .rxByte b => Sys2Proof.Machine.execRxByte b s
  | .synClear => Sys2Proof.Machine.execSynClear s
  | .reset => Sys2Proof.Machine.execReset s
  | .reserved9 => Sys2Proof.Machine.execReserved9 s
  | .reservedA => Sys2Proof.Machine.execReservedA s
  | .reservedB => Sys2Proof.Machine.execReservedB s
  | .reservedC => Sys2Proof.Machine.execReservedC s
  | .reservedD => Sys2Proof.Machine.execReservedD s
  | .reservedE => Sys2Proof.Machine.execReservedE s
  | .frameCmd opcode payload => Sys2Proof.Machine.execFrameCmd opcode payload s
  | .frameRsp opcode status payload checksum => Sys2Proof.Machine.execFrameRsp opcode status payload checksum s

end Sys2Proof.Machine
end

