-- ==== Sys2Proof/Machine/Step.lean ====
section
/-! DEFINITION. The step: the first issue on the port is taken, decoded and executed. Operations are issued from
outside (10_state.md R11) in one total order (20_memory.md R46), each atomic (00_scope.md R3). -/
namespace Sys2Proof.Machine

/-- One step. With nothing issued nothing happens (10_state.md R11; log entry 9). What is no instruction stops the
machine by name (log entry 5). -/
def step (s : State) : Host.Outcome State Fault Refusal :=
  match s.pending with
  | [] => .next s
  | issue :: rest =>
    match decode s.crcTable issue with
    | .ok i => exec i (s.setPending rest)
    | .error why => .refused (.notAnInstruction why)

/-- The state with an opcode-table word issued first (log entries 1 and 8). -/
def State.withFetchWord (s : State) (nbits w : Nat) : State := s.setPending (tableIssue nbits w :: s.pending)

end Sys2Proof.Machine
end

