-- ==== Sys2Proof/Machine/Flags.lean ====
section
/-! DEFINITION. The block has no flags and no condition codes (10_state.md R17). What it has in their place is the
result code of `VAL` where a result must be a number (60_exceptions.md R161). -/
namespace Sys2Proof.Machine

/-- The code of an error kind, in the order of the checks (60_exceptions.md R161, decision D16). -/
def FrameError.code : FrameError → Nat
  | .badDelimiter => 1
  | .lengthMismatch => 2
  | .crcMismatch => 3

/-- The result code of `VAL` (60_exceptions.md R161). -/
def resultCode : ValResult → Nat
  | .ok _ => 0
  | .error e => e.code

end Sys2Proof.Machine
end

