-- ==== Sys2Proof/Machine/Environment.lean ====
section
/-! DEFINITION. The surrounding software: Request/Response Correlator, Continuous Read Processor, Tag Decoder and the
payload encodings (45_environment.md). Nothing here is part of the block (00_scope.md R2, 45_environment.md R130): no
step of the machine reads or writes any of it. What the document leaves OPEN (92_eei_decisions.md D25 to D30) is a
field of `HostParams`; what it leaves to discretion is an argument (log entries 15, 16, 17, 19). -/
namespace Sys2Proof.Machine

/-- How a tie is rounded, which the document does not say (D30). -/
inductive TieRule where
  /-- To the larger integer. -/
  | up
  /-- To the smaller integer. -/
  | down
  /-- To the even integer. -/
  | even
  deriving DecidableEq, Repr

/-- The constants of the surrounding software, all OPEN but the last two (92_eei_decisions.md D25 to D30). -/
structure HostParams where
  /-- `OP_VERSION` (D25), and so on below. -/
  opVersion : Byte
  /-- `OP_SET_REGION`. -/
  opSetRegion : Byte
  /-- `OP_SET_READ_POWER`. -/
  opSetReadPower : Byte
  /-- `OP_GET_READ_POWER`. -/
  opGetReadPower : Byte
  /-- `OP_SET_WRITE_POWER`. -/
  opSetWritePower : Byte
  /-- `OP_GET_WRITE_POWER`. -/
  opGetWritePower : Byte
  /-- `OP_SET_TAG_PROTOCOL`. -/
  opSetTagProtocol : Byte
  /-- `OP_SET_ANTENNA_PORT`. -/
  opSetAntennaPort : Byte
  /-- `OP_MULTI`, the multi-protocol wrapper. -/
  opMulti : Byte
  /-- `OP_TAG_REPORT`. -/
  opTagReport : Byte
  /-- `ST_KEEPALIVE` (D26). -/
  stKeepalive : Word
  /-- `LEN_ZERO_TAG_MARKER` (D27). -/
  lenZeroTagMarker : Nat
  /-- `START_PAYLOAD` (D28). -/
  startPayload : ByteSeq
  /-- `STOP_PAYLOAD`, three bytes (D28, R137). -/
  stopPayload : ByteSeq
  /-- The payload of the command that gets the read power, which the document does not give (91_not_in_source.md N10). -/
  getReadPowerPayload : ByteSeq
  /-- The payload of the command that gets the write power (N10). -/
  getWritePowerPayload : ByteSeq
  /-- The offset of the value in the payload of the reply to it, which the document does not give (R135, N10). -/
  readPowerOffset : Nat
  /-- The same for the write power (R135, N10). -/
  writePowerOffset : Nat
  /-- The sole antenna port (D29, R136). -/
  solePort : Byte
  /-- The tie rule of `round` (D30). -/
  tie : TieRule
  /-- The EPC's base offset, 31 in the document (R149; 93_implementation_defined.md I2 makes it a parameter). -/
  epcBase : Nat
  /-- The bytes left out at the EPC's end, 4 in the document (R149; I2). -/
  epcTrim : Nat
  deriving DecidableEq, Repr

/-- What the document implies of the open parameters: D25 and D26, and the three bytes of R137. -/
def HostParams.wellFormed (p : HostParams) : Bool :=
  decide (p.opMulti ≠ p.opTagReport) && decide (p.stKeepalive ≠ 0) && decide (p.stopPayload.length = 3)

/-- The nearest integer of a non-negative rational, ties by the rule given (45_environment.md R135). -/
def roundNat (tie : TieRule) (x : ℚ) : ℕ :=
  let low := ⌊x⌋.toNat
  let rest := x - (low : ℚ)
  if rest < 1 / 2 then low
  else if 1 / 2 < rest then low + 1
  else
    match tie with
    | .up => low + 1
    | .down => low
    | .even => if low % 2 = 0 then low else low + 1

/-- `power = clamp(round(|dBm*100|), max=2700)`: the magnitude in centi-dBm, the sign dropped (45_environment.md R135,
conflict C9). dBm is an exact rational here (log entry 16). -/
def powerOf (tie : TieRule) (dBm : ℚ) : ℕ :=
  min (roundNat tie |dBm * (Config.centi : ℚ)|) Config.maxPower

/-- The set-power payload, two bytes big-endian (45_environment.md R135). -/
def powerPayload (tie : TieRule) (dBm : ℚ) : ByteSeq :=
  [hi8 (BitVec.ofNat 16 (powerOf tie dBm)), lo8 (BitVec.ofNat 16 (powerOf tie dBm))]

/-- "decode reverses by dividing by 100" (45_environment.md R135). -/
def powerDecode (v : Word) : ℚ := (v.toNat : ℚ) / (Config.centi : ℚ)

/-- The unary operations: a command sent, one reply awaited and decoded (45_environment.md R133, R145). -/
inductive UnaryCall where
  /-- Get firmware/hardware version. -/
  | getVersion
  /-- Set region. -/
  | setRegion (code : Byte)
  /-- Set read power. -/
  | setReadPower (dBm : ℚ)
  /-- Set write power. -/
  | setWritePower (dBm : ℚ)
  /-- Get read power. -/
  | getReadPower
  /-- Get write power. -/
  | getWritePower
  /-- Set tag protocol. -/
  | setTagProtocol (code : Byte)
  /-- Set antenna port; both ports default to the sole one. -/
  | setAntennaPort (ports : Option (Byte × Byte))
  /-- Stop continuous read: Streaming to Idle. -/
  | stopReading
  deriving DecidableEq, Repr

/-- The driver's calls that send a command: "Each but `open()` and `startReading` is one unary command"
(45_environment.md R145). -/
inductive HostCall where
  /-- A unary operation. -/
  | unary (call : UnaryCall)
  /-- Idle to Streaming. -/
  | startReading
  deriving DecidableEq, Repr

/-- The operation a unary call issues to the block (45_environment.md R133 to R137). -/
def UnaryCall.command (p : HostParams) : UnaryCall → Instr
  | .getVersion => .enc p.opVersion none
  | .setRegion code => .enc p.opSetRegion (some [code])
  | .setReadPower dBm => .enc p.opSetReadPower (some (powerPayload p.tie dBm))
  | .setWritePower dBm => .enc p.opSetWritePower (some (powerPayload p.tie dBm))
  | .getReadPower => .enc p.opGetReadPower (some p.getReadPowerPayload)
  | .getWritePower => .enc p.opGetWritePower (some p.getWritePowerPayload)
  | .setTagProtocol code => .enc p.opSetTagProtocol (some [0x00#8, code])
  | .setAntennaPort none => .enc p.opSetAntennaPort (some [p.solePort, p.solePort])
  | .setAntennaPort (some (tx, rx)) => .enc p.opSetAntennaPort (some [tx, rx])
  | .stopReading => .enc p.opMulti (some p.stopPayload)

/-- The operation a call issues to the block; the start command of 45_environment.md R139. -/
def HostCall.command (p : HostParams) : HostCall → Instr
  | .unary call => call.command p
  | .startReading => .enc p.opMulti (some p.startPayload)

/-- What the typed decode of a reply yields (45_environment.md R133). -/
inductive Reply where
  /-- The reply to getVersion. -/
  | version (info : VersionInfo)
  /-- The reply to getReadPower or getWritePower. -/
  | power (dBm : ℚ)
  /-- The reply to a call that asks for no value. -/
  | acknowledged
  deriving DecidableEq, Repr

/-- The power in a reply's payload: the two bytes, big-endian, at an open offset, divided by 100; nothing where the
offset leaves the payload (45_environment.md R135; DESIGN CHOICE, log entry 19). -/
def decodePower (payload : ByteSeq) (offset : Nat) : Option ℚ :=
  (memRead payload offset Config.powerBytes).map fun v => powerDecode (BitVec.ofNat 16 v)

/-- The "typed decode of the reply payload" of each unary operation, or nothing where the payload holds no such value
(45_environment.md R133, R135; the layouts are open, 91_not_in_source.md N10; DESIGN CHOICE, log entry 19). -/
def UnaryCall.decodeReply (p : HostParams) (payload : ByteSeq) : UnaryCall → Option Reply
  | .getVersion => (Config.versionOfReply payload).map .version
  | .getReadPower => (decodePower payload p.readPowerOffset).map .power
  | .getWritePower => (decodePower payload p.writePowerOffset).map .power
  | .setRegion _ => some .acknowledged
  | .setReadPower _ => some .acknowledged
  | .setWritePower _ => some .acknowledged
  | .setTagProtocol _ => some .acknowledged
  | .setAntennaPort _ => some .acknowledged
  | .stopReading => some .acknowledged

/-- The two states of the Continuous Read Processor (45_environment.md R138). -/
inductive ReadMode where
  /-- Idle. -/
  | idle
  /-- Streaming. -/
  | streaming
  deriving DecidableEq, Repr

/-- The state of the surrounding software (10_state.md R22). -/
structure HostState where
  /-- The transport has signalled ready (45_environment.md R144). -/
  ready : Bool
  /-- Idle or Streaming (R138). -/
  mode : ReadMode
  /-- The persistent listener is attached to the delivery stream (R139, R142). -/
  listener : Bool
  /-- PendingRequest: at most one (R132). -/
  outstanding : Option UnaryCall
  deriving DecidableEq, Repr

/-- Nothing persists across restarts: not ready, idle, nothing attached, nothing outstanding. -/
def HostState.initial : HostState where
  ready := false
  mode := .idle
  listener := false
  outstanding := none

/-- Why a host that keeps to the document's preconditions makes no such call (93_implementation_defined.md I3, I11). -/
inductive HostRefusal where
  /-- "the core issues no writes before the transport signals ready" (R144). -/
  | notReady
  /-- "Only one call may be outstanding" (R132). -/
  | commandOutstanding
  /-- "unary commands must not be issued while Streaming" (R143), and streaming is not started twice. -/
  | streamingActive
  deriving DecidableEq, Repr

/-- The transport's lifecycle event (45_environment.md R144). -/
def HostState.onReady (h : HostState) : HostState := { h with ready := true }

/-- A call: the operation it issues and the host's state after it, or why it is not made. Only the stop goes out while
Streaming (45_environment.md R142, R143). `startReading` does not wait for an acknowledgement (R139). -/
def hostCall (p : HostParams) (h : HostState) (call : HostCall) : Except HostRefusal (HostState × Instr) :=
  if h.ready = false then .error .notReady
  else if h.outstanding.isSome then .error .commandOutstanding
  else
    match call with
    | .unary .stopReading =>
      .ok ({ h with outstanding := some .stopReading }, HostCall.command p (.unary .stopReading))
    | .startReading =>
      if h.mode = .streaming then .error .streamingActive
      else .ok ({ h with mode := .streaming, listener := true }, HostCall.command p .startReading)
    | .unary other =>
      if h.mode = .streaming then .error .streamingActive
      else .ok ({ h with outstanding := some other }, HostCall.command p (.unary other))

/-- The classes of a valid frame in the stream, in the document's precedence (45_environment.md R141). -/
inductive StreamClass where
  /-- 1: echo or acknowledgement of the start or stop command. -/
  | echo
  /-- 2: unexpected frame. -/
  | unexpected
  /-- 3: keep-alive. -/
  | keepAlive
  /-- 4: device-reported error on this cycle. -/
  | deviceError
  /-- 5: the cycle produced zero tags. -/
  | zeroTags
  /-- 6: a tag report. -/
  | tag
  deriving DecidableEq, Repr

/-- The classification "by opcode and status, in this precedence order" (45_environment.md R141). -/
def classify (p : HostParams) (v : ValidatedFrame) : StreamClass :=
  if v.opcode = p.opMulti then .echo
  else if v.opcode ≠ p.opTagReport then .unexpected
  else if v.status = p.stKeepalive then .keepAlive
  else if v.status ≠ 0 then .deviceError
  else if v.n.toNat = p.lenZeroTagMarker then .zeroTags
  else .tag

/-- A TagRecord (45_environment.md R150); rssi is an unsigned byte (R146, conflict C12). -/
structure TagRecord where
  /-- The EPC bytes. -/
  epc : ByteSeq
  /-- The byte at offset 12. -/
  rssi : Byte
  deriving DecidableEq, Repr

/-- `ceil(bits / 8)` (45_environment.md R147, R148). -/
def bytesOfBits (bits : Nat) : Nat := (bits + 7) / 8

/-- The Tag Decoder on the whole frame's bytes (45_environment.md R146 to R149). A tag report holds at least the EPC's
slice and the two checksum bytes after it, `31 + dataBytes + epcBytes - 4 + 2` bytes (conflict C5). Of a shorter frame,
and where the EPC's byte count is below the trim, there is no record: the document says nothing there
(91_not_in_source.md N12; DESIGN CHOICE, log entry 17). -/
def decodeTag (p : HostParams) (f : ByteSeq) : Option TagRecord :=
  match f[Config.rssiOffset]?, memRead f Config.auxBitsOffset Config.bitCountBytes,
    memRead f Config.epcBitsOffset Config.bitCountBytes with
  | some rssi, some auxBits, some epcBits =>
    let start := p.epcBase + bytesOfBits auxBits
    let count := bytesOfBits epcBits - p.epcTrim
    if p.epcTrim ≤ bytesOfBits epcBits ∧ start + count + Config.crcBytes ≤ f.length then
      some { epc := slice f start (start + count), rssi := rssi }
    else none
  | _, _, _ => none

/-- Who takes a frame delivered while both the listener and the Correlator's wait are attached; the document does not
say (91_not_in_source.md N11, 93_implementation_defined.md I1). -/
inductive DrainChoice where
  /-- The Correlator's single-shot wait. -/
  | toCorrelator
  /-- The persistent listener. -/
  | toListener
  /-- Neither. -/
  | dropped
  deriving DecidableEq, Repr

/-- What the host does with a delivered frame. -/
inductive HostAction where
  /-- The outstanding unary command resolves with the validated frame and the typed decode of its payload (R131, R133;
  nothing decoded: log entry 19). -/
  | resolved (call : UnaryCall) (frame : ValidatedFrame) (reply : Option Reply)
  /-- The outstanding unary command fails with the error (R132). -/
  | failed (call : UnaryCall) (e : FrameError)
  /-- `onTag` is invoked with the Tag Decoder's record, or with none where the decoder yields none (log entry 17). -/
  | onTag (record : Option TagRecord)
  /-- The frame is dropped. -/
  | dropped
  /-- Nobody is attached: taken or dropped, both allowed (93_implementation_defined.md I12). -/
  | unattended
  deriving DecidableEq, Repr

/-- The host once its outstanding call is answered: an acknowledged stop ends the streaming and detaches the listener
(45_environment.md R142). -/
def HostState.answered (h : HostState) (call : UnaryCall) : HostState :=
  match call with
  | .stopReading => { h with outstanding := none, mode := .idle, listener := false }
  | _ => { h with outstanding := none }

/-- The Correlator takes the frame, whatever its opcode: the pending call resolves with the typed decode of its payload,
or fails with no retry (45_environment.md R131 to R133). -/
def correlate (p : HostParams) (h : HostState) (call : UnaryCall) (r : ValResult) : HostState × HostAction :=
  match r with
  | .ok v => (h.answered call, .resolved call v (call.decodeReply p v.payload))
  | .error e => ({ h with outstanding := none }, .failed call e)

/-- The listener takes the frame: an invalid one is dropped, a valid one is classified (45_environment.md R140, R141).
The document does not say what becomes of a tag report of which the Tag Decoder yields no record
(91_not_in_source.md N12): here `onTag` is invoked all the same, with no record (DESIGN CHOICE, log entry 17). -/
def listen (p : HostParams) (r : ValResult) : HostAction :=
  match r with
  | .error _ => .dropped
  | .ok v =>
    match classify p v with
    | .tag => .onTag (decodeTag p v.frame)
    | _ => .dropped

/-- The host's handling of one `deliver` event; the choice counts only while both are attached. -/
def hostDeliver (p : HostParams) (h : HostState) (choice : DrainChoice) (r : ValResult) : HostState × HostAction :=
  match h.outstanding, h.listener with
  | some call, false => correlate p h call r
  | none, true => (h, listen p r)
  | none, false => (h, .unattended)
  | some call, true =>
    match choice with
    | .toCorrelator => correlate p h call r
    | .toListener => (h, listen p r)
    | .dropped => (h, .dropped)

/-- The host's handling of the block's events in their order, each with the choice made there (45_environment.md
R131, R140; a `tx` asks nothing of the host). -/
def hostWatch (p : HostParams) (h : HostState) : List (Event × DrainChoice) → HostState × List HostAction
  | [] => (h, [])
  | (.tx _, _) :: rest => hostWatch p h rest
  | (.deliver _ r, choice) :: rest =>
    let (h', action) := hostDeliver p h choice r
    let (h'', actions) := hostWatch p h' rest
    (h'', action :: actions)

end Sys2Proof.Machine
end

