-- ==== Sys2Proof/Safety.lean ====
section
/-! DEFINITION. The terms claims use: who issues what, sequences of operations, the invariants of the state and of what
has been observed, and which runs say something. -/
namespace Sys2Proof

/-- Who causes a step (00_scope.md section 4, table Agents). -/
inductive Agent where
  /-- The host. -/
  | host
  /-- The transport's receive side. -/
  | transport
  /-- Reset. -/
  | resetSource
  deriving DecidableEq, Repr

/-- The agent that issues an instruction (00_scope.md section 4); a reserved code could only be the host's. The block
does not check it (60_exceptions.md R171). -/
def Instr.agent : Instr → Agent
  | .crcInit => .host
  | .crcNib _ => .host
  | .crcByte _ => .host
  | .crcRead => .host
  | .crcSum _ _ _ => .host
  | .enc _ _ => .host
  | .val _ => .host
  | .rxByte _ => .transport
  | .synClear => .host
  | .reset => .resetSource
  | .reserved9 => .host
  | .reservedA => .host
  | .reservedB => .host
  | .reservedC => .host
  | .reservedD => .host
  | .reservedE => .host
  | .frameCmd _ _ => .host
  | .frameRsp _ _ _ _ => .transport

/-- The instructions that write `CRC.ACC` (10_state.md R10, column Written by). -/
def Instr.writesAcc : Instr → Bool
  | .crcInit | .crcNib _ | .crcByte _ | .reset => true
  | .crcRead | .crcSum _ _ _ | .enc _ _ | .val _ | .rxByte _ | .synClear => false
  | .reserved9 | .reservedA | .reservedB | .reservedC | .reservedD | .reservedE => false
  | .frameCmd _ _ | .frameRsp _ _ _ _ => false

/-- The instructions that write `SYN.BUF` (10_state.md R10, column Written by; FRAME.RSP is RX.BYTEs). -/
def Instr.writesBuf : Instr → Bool
  | .rxByte _ | .synClear | .reset | .frameRsp _ _ _ _ => true
  | .crcInit | .crcNib _ | .crcByte _ | .crcRead | .crcSum _ _ _ | .enc _ _ | .val _ => false
  | .reserved9 | .reservedA | .reservedB | .reservedC | .reservedD | .reservedE => false
  | .frameCmd _ _ => false

/-- The reserved select codes (30_encoding.md R59). -/
def Instr.isReserved : Instr → Bool
  | .reserved9 | .reservedA | .reservedB | .reservedC | .reservedD | .reservedE => true
  | .crcInit | .crcNib _ | .crcByte _ | .crcRead | .crcSum _ _ _ | .enc _ _ | .val _ => false
  | .rxByte _ | .synClear | .reset | .frameCmd _ _ | .frameRsp _ _ _ _ => false

/-- The byte a `CRC.BYTE` folds in, and nothing for any other instruction. -/
def Instr.crcByteOperand : Instr → List Byte
  | .crcByte b => [b]
  | .crcInit | .crcNib _ | .crcRead | .crcSum _ _ _ | .enc _ _ | .val _ | .rxByte _ | .synClear | .reset => []
  | .reserved9 | .reservedA | .reservedB | .reservedC | .reservedD | .reservedE => []
  | .frameCmd _ _ | .frameRsp _ _ _ _ => []

namespace Machine

/-- The operation an instruction is refused for, if any, from its operands alone (60_exceptions.md R163; a command
frame that could not be built is refused as `ENC` is, log entry 6). -/
def refusedFor : Instr → Option RefuseReason
  | .crcSum bytes off n => if bytes.length < off + n then some .rangeOutOfBounds else none
  | .enc _ payload => if Config.maxN < (payload.getD []).length then some .payloadTooLong else none
  | .frameCmd _ payload => if Config.maxN < payload.length then some .payloadTooLong else none
  | .reserved9 | .reservedA | .reservedB | .reservedC | .reservedD | .reservedE => some .reservedOperation
  | .crcInit | .crcNib _ | .crcByte _ | .crcRead | .val _ | .rxByte _ | .synClear | .reset => none
  | .frameRsp _ _ _ _ => none

/-- Bit `k` of a byte sequence read as one message, the most significant bit of the first byte first (20_memory.md
R32, 40_crc.md R78). -/
def messageBit (s : ByteSeq) (k : Nat) : Bool := (s.getD (k / 8) 0).getLsbD (7 - k % 8)

/-- Instructions executed one after another (the total order of 20_memory.md R46). -/
def execAll : List Instr → State → Host.Outcome State Fault Refusal
  | [], s => .next s
  | i :: rest, s =>
    match exec i s with
    | .next t => execAll rest t
    | .fault r => .fault r
    | .refused r => .refused r

/-- The pseudo-operation `RX.BYTES` (30_encoding.md R62). -/
def rxByteInstrs (bytes : ByteSeq) : List Instr := bytes.map Instr.rxByte

/-- The event an observation is, if it is one. -/
def Observation.event? : Observation → Option Event
  | .event e => some e
  | .outcome _ => none

/-- The events among the observations, in their order. -/
def eventsOf (log : List Observation) : List Event := log.filterMap Observation.event?

/-- The invariants of `SYN.BUF` (10_state.md R16); (iii) follows from (ii). -/
def synInv : ByteSeq → Bool
  | [] => true
  | [d] => decide (d = Config.delim)
  | d :: n :: rest => decide (d = Config.delim) && decide (rest.length + 2 < n.toNat + Config.ovhRsp)

/-- The command-frame invariant (41_framer.md R89). -/
def CommandOk (t : CrcTable) (f : ByteSeq) : Prop :=
  f[0]? = some Config.delim ∧
  ∃ n, f[1]? = some n ∧ f.length = n.toNat + Config.ovhCmd ∧ n.toNat ≤ Config.maxN ∧
    memRead f (n.toNat + 3) Config.crcBytes = (checksum t f 1 (n.toNat + 2)).map BitVec.toNat

/-- What holds of every delivered candidate and its result (43_synchronizer.md R114, R116). -/
def DeliveredOk (t : CrcTable) (f : ByteSeq) (r : ValResult) : Prop :=
  f[0]? = some Config.delim ∧
  (∃ n, f[1]? = some n ∧ f.length = n.toNat + Config.ovhRsp) ∧
  r = validate t f

/-- Every event observed is one the block may emit. -/
def EventOk (t : CrcTable) : Event → Prop
  | .tx f => CommandOk t f
  | .deliver f r => DeliveredOk t f r

/-- The machine's invariant: `SYN.BUF` as 10_state.md R16 says, and every event observed as 41_framer.md R89 and
43_synchronizer.md R116 say. -/
def State.Inv (s : State) : Prop :=
  synInv s.synBuf = true ∧ ∀ e ∈ eventsOf s.log, EventOk s.crcTable e

/-- An observation that is a refusal. -/
def Observation.isRefusal : Observation → Bool
  | .outcome (.refuse _) => true
  | _ => false

/-- The run so far says something: it holds no refused operation. "a model should treat a refused operation as a host
error that makes the run say nothing, never as a success" (60_exceptions.md R163; log entry 4). A claim about a run
that the block's user relies on takes this as a premise. -/
def State.speaks (s : State) : Bool := s.log.all fun o => !o.isRefusal

/-- The received bytes have all been delivered or discarded (70_reset_and_hazards.md R186, 10_state.md R20). -/
def State.drained (s : State) : Bool := s.synBuf.isEmpty

/-- The listener is attached exactly while Streaming (45_environment.md R139, R142). -/
def HostState.Inv (h : HostState) : Prop := h.listener = true ↔ h.mode = .streaming

end Machine
end Sys2Proof
end

