-- ==== Sys2Proof/Certificates/Slice0/Obligations.lean ====
section
/-! DEFINITION. The statements. Each docstring names the rules of spec/ it formalises. A statement about an outcome or
an event is made through the model's log (log entry 2); a next state written `{ s with ... }` says that every field
not named is as it was. Where a rule carries the spec's own mark [decision: D<n>], the docstring names D<n>; where it
carries [derived: ...] or [from general knowledge], the statement's basis is 'derived'. -/

open Sys2Proof Sys2Proof.Machine

/-! Reset, encoding, step. -/

/-- 70_reset_and_hazards.md R181 (decision D17): the reset value of every piece of state the block has. -/
def Obligations.ResetHoldsSpecValues : Prop :=
  State.reset.crcAcc = 0xFFFF#16 ∧ State.reset.synBuf = [] ∧ synPhase State.reset.synBuf = .hunt ∧
  synCnt State.reset.synBuf = 0

/-- 00_scope.md R5 (the spec's general knowledge, PRESUMED, log entry 3): the table the machine holds after reset is,
entry by entry, the carry-less product of the index and 0x1021. -/
def Obligations.ResetTableIsMultiplesOfGenerator : Prop :=
  ∀ i : Nibble, tableEntry State.reset.crcTable i =
    (if i.getLsbD 0 then 0x1021#16 else 0) ^^^ (if i.getLsbD 1 then 0x1021#16 <<< 1 else 0) ^^^
    (if i.getLsbD 2 then 0x1021#16 <<< 2 else 0) ^^^ (if i.getLsbD 3 then 0x1021#16 <<< 3 else 0)

/-- 30_encoding.md section 4 (R58, decision D2): the ten select codes, each with operands of its class. -/
def Obligations.OperationsDecodeByCode : Prop :=
  ∀ t : CrcTable,
    decode t (.op 0x0 .z) = .ok .crcInit ∧
    (∀ n, decode t (.op 0x1 (.n4 n)) = .ok (.crcNib n)) ∧
    (∀ b, decode t (.op 0x2 (.b8 b)) = .ok (.crcByte b)) ∧
    decode t (.op 0x3 .z) = .ok .crcRead ∧
    (∀ bytes off n, decode t (.op 0x4 (.rng bytes off n)) = .ok (.crcSum bytes off n)) ∧
    (∀ opcode payload, decode t (.op 0x5 (.opp opcode payload)) = .ok (.enc opcode payload)) ∧
    (∀ frame, decode t (.op 0x6 (.frm frame)) = .ok (.val frame)) ∧
    (∀ b, decode t (.op 0x7 (.b8 b)) = .ok (.rxByte b)) ∧
    decode t (.op 0x8 .z) = .ok .synClear ∧
    decode t (.op 0xF .z) = .ok .reset

/-- 30_encoding.md section 3, reserved select codes (decision D2): a step on one is refused, no state of the block changes
and no event is emitted. That it is refused whatever operands stand beside it is the model's reading (DEDUCED, log entry
10: the codes have no operand class); the issue port is the model's (log entry 1). -/
def Obligations.ReservedCodesAreRefused : Prop :=
  ∀ (s : State) (code : BitVec 4) (operands : Operands) (rest : List Issue),
    0x9#4 ≤ code → code ≤ 0xE#4 → s.pending = .op code operands :: rest →
    step s = .next { s with pending := rest, log := s.log ++ [.outcome (.refuse .reservedOperation)] }

/-- Decode and encode agree for every well-formed instruction, every operand at every value, under every table
(30_encoding.md sections 1 and 4). -/
def Obligations.DecodeInvertsEncode : Prop :=
  ∀ (t : CrcTable) (i : Instr), i.wellFormed = true → decode t (encode t i) = .ok i

/-- Each issue has at most one meaning and no information of it is lost; a reserved code's operands, which it ignores,
are the exception (log entry 10). -/
def Obligations.EncodeInvertsDecode : Prop :=
  ∀ (t : CrcTable) (j : Issue) (i : Instr), decode t j = .ok i → i.isReserved = false → encode t i = j

/-- The decoder gives well-formed instructions only: a command frame's length is 0 to 248 (30_encoding.md section 1). -/
def Obligations.DecodedIsWellFormed : Prop :=
  ∀ (t : CrcTable) (j : Issue) (i : Instr), decode t j = .ok i → i.wellFormed = true

/-- Operands not of a select code's class (30_encoding.md section 4, the table of R58) are rejected by name, for each of
the ten codes that have a class; and nothing encodes to what is rejected. The rejection is the model's choice (log entry
5); the codes 0x9 to 0xE have no class (log entry 10). -/
def Obligations.WrongOperandClassIsRejected : Prop :=
  ∀ (t : CrcTable) (o : Operands),
    (o ≠ .z → decode t (.op 0x0 o) = .error (.operandClass 0x0)) ∧
    ((∀ n, o ≠ .n4 n) → decode t (.op 0x1 o) = .error (.operandClass 0x1)) ∧
    ((∀ b, o ≠ .b8 b) → decode t (.op 0x2 o) = .error (.operandClass 0x2)) ∧
    (o ≠ .z → decode t (.op 0x3 o) = .error (.operandClass 0x3)) ∧
    ((∀ bytes off n, o ≠ .rng bytes off n) → decode t (.op 0x4 o) = .error (.operandClass 0x4)) ∧
    ((∀ opcode payload, o ≠ .opp opcode payload) → decode t (.op 0x5 o) = .error (.operandClass 0x5)) ∧
    ((∀ frame, o ≠ .frm frame) → decode t (.op 0x6 o) = .error (.operandClass 0x6)) ∧
    ((∀ b, o ≠ .b8 b) → decode t (.op 0x7 o) = .error (.operandClass 0x7)) ∧
    (o ≠ .z → decode t (.op 0x8 o) = .error (.operandClass 0x8)) ∧
    (o ≠ .z → decode t (.op 0xF o) = .error (.operandClass 0xF)) ∧
    ∀ code e i, decode t (.op code o) = .error e → encode t i ≠ .op code o

/-- Select codes and frames written out from the spec (30_encoding.md sections 1 and 4; frames of 95_test_vectors.md,
which rest on the default table, log entry 3) decode to what they stand for. That a table word holds its select code in
the low bits of one byte is the model's choice (log entry 8), and so is the rejection of the last frame, whose checksum
bytes are swapped (log entry 5). -/
def Obligations.WrittenOutWordsDecode : Prop :=
  decodeTableWord 8 0x03 = some .crcRead ∧ decodeTableWord 8 0x08 = some .synClear ∧
  decodeTableWord 8 0x0F = some .reset ∧ decodeTableWord 8 0x0C = some .reservedC ∧
  decode Config.defaultCrcTable (.wire .toHost [0xFF, 0x02, 0x62, 0x00, 0x00, 0x0A, 0x8C, 0x1C, 0xFF]) =
    .ok (.frameRsp 0x62 0x0000 [0x0A, 0x8C] 0x1CFF) ∧
  decode Config.defaultCrcTable (.wire .toDevice [0xFF, 0x01, 0x97, 0x0D, 0x4B, 0xB0]) =
    .ok (.frameCmd 0x97 [0x0D]) ∧
  decode Config.defaultCrcTable (.wire .toDevice [0xFF, 0x01, 0x97, 0x0D, 0xB0, 0x4B]) = .error .notACommandFrame

/-- A step takes the first issue, decodes it and executes it with the rest of the port left; with nothing issued it
changes nothing, and what is no instruction stops it by name (log entries 1, 5, 9; 10_state.md R11). -/
def Obligations.StepRunsTheDecodedInstruction : Prop :=
  ∀ s : State,
    (s.pending = [] → step s = .next s) ∧
    (∀ j rest i, s.pending = j :: rest → decode s.crcTable j = .ok i → step s = exec i { s with pending := rest }) ∧
    (∀ j rest e, s.pending = j :: rest → decode s.crcTable j = .error e → step s = .refused (.notAnInstruction e))

/-- 00_scope.md R7 (decision D24): every operation gives exactly one outcome for every state and every operand value:
ok, raise (only VAL) or refuse. The two wire formats are no operations of the block (log entries 6 and 7). -/
def Obligations.EveryOperationHasOneOutcome : Prop :=
  ∀ (i : Instr) (s : State), (∀ op p, i ≠ .frameCmd op p) → (∀ op st p ck, i ≠ .frameRsp op st p ck) →
    ∃ (t : State) (es : List Event) (o : OpOutcome), exec i s = .next t ∧
      t.log = s.log ++ (es.map Observation.event ++ [Observation.outcome o]) ∧
      (∀ e, o = .raise e → ∃ f, i = .val f)

/-! The CRC unit. -/

/-- 40_crc.md R71 (decision D5): the nibble step as the rule writes it, on unbounded integers, and in its second
form. -/
def Obligations.NibbleStepFormula : Prop :=
  ∀ (t : CrcTable) (c : Word) (n : Nibble),
    (crcStep t c n).toNat =
      (((c.toNat <<< 4) ||| n.toNat) ^^^ (t.toList.getD (c.toNat >>> 12) 0).toNat) &&& 0xFFFF ∧
    (crcStep t c n).toNat =
      (((c.toNat % 4096) <<< 4) ||| n.toNat) ^^^ (t.toList.getD (c.toNat >>> 12) 0).toNat

/-- 40_crc.md R72 (decision D3). -/
def Obligations.CrcInitResult : Prop :=
  ∀ s : State, decode s.crcTable (.op 0x0 .z) = .ok .crcInit ∧ exec .crcInit s =
    .next { s with crcAcc := 0xFFFF#16, log := s.log ++ [.outcome (.ok .none)] }

/-- 40_crc.md R73 (decision D3). -/
def Obligations.CrcNibResult : Prop :=
  ∀ (n : Nibble) (s : State), decode s.crcTable (.op 0x1 (.n4 n)) = .ok (.crcNib n) ∧ exec (.crcNib n) s =
    .next { s with crcAcc := crcStep s.crcTable s.crcAcc n, log := s.log ++ [.outcome (.ok .none)] }

/-- 40_crc.md R74 (decision D3): the high nibble first, then the low nibble; the same value of `CRC.ACC` as the two
`CRC.NIB`s give. -/
def Obligations.CrcByteResult : Prop :=
  ∀ (b : Byte) (s : State),
    decode s.crcTable (.op 0x2 (.b8 b)) = .ok (.crcByte b) ∧
    exec (.crcByte b) s =
      .next { s with
        crcAcc := crcStep s.crcTable (crcStep s.crcTable s.crcAcc (BitVec.ofNat 4 (b.toNat / 16)))
          (BitVec.ofNat 4 (b.toNat % 16)),
        log := s.log ++ [.outcome (.ok .none)] } ∧
    ∃ t u, exec (.crcByte b) s = .next t ∧
      execAll [.crcNib (BitVec.ofNat 4 (b.toNat / 16)), .crcNib (BitVec.ofNat 4 (b.toNat % 16))] s = .next u ∧
      t.crcAcc = u.crcAcc ∧ t.synBuf = u.synBuf

/-- 40_crc.md R75 (decision D3): the running value, no state changed. -/
def Obligations.CrcReadResult : Prop :=
  ∀ s : State, decode s.crcTable (.op 0x3 .z) = .ok .crcRead ∧
    exec .crcRead s = .next { s with log := s.log ++ [.outcome (.ok (.word s.crcAcc))] }

/-- 40_crc.md R76 (decision D11): the loop over the offsets `off` to `off + n - 1`, or the refusal; `CRC.ACC` untouched. -/
def Obligations.CrcSumResult : Prop :=
  ∀ (bytes : ByteSeq) (off n : Nat) (s : State),
    decode s.crcTable (.op 0x4 (.rng bytes off n)) = .ok (.crcSum bytes off n) ∧
    (off + n ≤ bytes.length → exec (.crcSum bytes off n) s =
      .next { s with log := s.log ++ [.outcome (.ok (.word ((List.range' off n).foldl
        (fun c i => crcStep s.crcTable (crcStep s.crcTable c (hi4 (bytes.getD i 0))) (lo4 (bytes.getD i 0)))
        0xFFFF#16)))] }) ∧
    (bytes.length < off + n → exec (.crcSum bytes off n) s =
      .next { s with log := s.log ++ [.outcome (.refuse .rangeOutOfBounds)] })

/-- 40_crc.md section 4, law (iv): after `CRC.INIT` and the `CRC.BYTE`s of a range, with any other operations between
them but `CRC.INIT`, `CRC.NIB` and `RESET`, `CRC.READ` returns the checksum of the range. -/
def Obligations.StreamingAgreesWithChecksum : Prop :=
  ∀ (ops : List Instr) (s : State) (bytes : ByteSeq) (off n : Nat),
    off + n ≤ bytes.length →
    (∀ i ∈ ops, i ≠ .crcInit ∧ i ≠ .reset ∧ ∀ m, i ≠ .crcNib m) →
    ops.flatMap Instr.crcByteOperand = slice bytes off (off + n) →
    ∃ t c, execAll (.crcInit :: ops) s = .next t ∧ checksum s.crcTable bytes off n = some c ∧
      exec .crcRead t = .next { t with log := t.log ++ [.outcome (.ok (.word c))] }

/-- 40_crc.md section 4, the bit-serial form, valid for the default table (general knowledge, log entry 3). -/
def Obligations.StepIsFourBitSteps : Prop :=
  ∀ (c : Word) (n : Nibble), crcStep Config.defaultCrcTable c n =
    bitStep (bitStep (bitStep (bitStep c (n.getLsbD 3)) (n.getLsbD 2)) (n.getLsbD 1)) (n.getLsbD 0)

/-- 40_crc.md section 4, algebraic consequence (i), default table (log entry 3). -/
def Obligations.ChecksumIsLinear : Prop :=
  ∀ a b : ByteSeq, a.length = b.length →
    crcFold Config.defaultCrcTable 0xFFFF#16 a ^^^ crcFold Config.defaultCrcTable 0xFFFF#16 b =
      crcFold Config.defaultCrcTable 0x0000#16 (List.zipWith (· ^^^ ·) a b)

/-- 40_crc.md section 4, algebraic consequence (ii), default table (log entry 3): two ranges of equal length that
differ, all differing bits within 16 consecutive bit positions, have different checksums. -/
def Obligations.BurstsUpToSixteenBitsAreDetected : Prop :=
  ∀ (a b : ByteSeq) (k : Nat), a.length = b.length → a ≠ b →
    (∀ j, messageBit a j ≠ messageBit b j → k ≤ j ∧ j < k + 16) →
    crcFold Config.defaultCrcTable 0xFFFF#16 a ≠ crcFold Config.defaultCrcTable 0xFFFF#16 b

/-- 40_crc.md section 4, algebraic consequence (iii), default table (log entry 3): running the fold on over the
checksum bytes of two command frames gives two values. -/
def Obligations.ThereIsNoConstantResidue : Prop :=
  checksum Config.defaultCrcTable (commandFrame Config.defaultCrcTable 0x03 []) 1 4 ≠
    checksum Config.defaultCrcTable (commandFrame Config.defaultCrcTable 0x97 [0x0D]) 1 5

/-! The frame encoder. -/

/-- 41_framer.md R85, R86, R87 (decision D9 for R87): the frame and its one `tx`, or the refusal; an absent payload is
the empty one; no state of the block is written. -/
def Obligations.EncResult : Prop :=
  ∀ (opcode : Byte) (payload : Option ByteSeq) (s : State),
    decode s.crcTable (.op 0x5 (.opp opcode payload)) = .ok (.enc opcode payload) ∧
    ((payload.getD []).length ≤ 248 →
      let p := payload.getD []
      let covered := BitVec.ofNat 8 p.length :: opcode :: p
      let c := crcFold s.crcTable 0xFFFF#16 covered
      let frame := 0xFF#8 :: (covered ++ [BitVec.ofNat 8 (c.toNat / 256), BitVec.ofNat 8 (c.toNat % 256)])
      exec (.enc opcode payload) s =
        .next { s with log := s.log ++ [.event (.tx frame), .outcome (.ok (.bytes frame))] }) ∧
    (248 < (payload.getD []).length → exec (.enc opcode payload) s =
      .next { s with log := s.log ++ [.outcome (.refuse .payloadTooLong)] })

/-- 41_framer.md section on the guarantee: every frame that `ENC` sends satisfies the command-frame invariant. -/
def Obligations.EncGuarantee : Prop :=
  ∀ (opcode : Byte) (payload : Option ByteSeq) (s t : State) (f : ByteSeq),
    exec (.enc opcode payload) s = .next t → .event (.tx f) ∈ t.log.drop s.log.length →
    f[0]? = some 0xFF#8 ∧ ∃ n high low, f[1]? = some n ∧ f.length = n.toNat + 5 ∧ n.toNat ≤ 248 ∧
      f[n.toNat + 3]? = some high ∧ f[n.toNat + 4]? = some low ∧
      checksum s.crcTable f 1 (n.toNat + 2) = some (be16 high low)

/-- 41_framer.md, property (iii): two `ENC`s that leave the same state sent the same opcode and payload. -/
def Obligations.EncIsInjective : Prop :=
  ∀ (opcode opcode' : Byte) (payload payload' : Option ByteSeq) (s t : State),
    (payload.getD []).length ≤ 248 → (payload'.getD []).length ≤ 248 →
    exec (.enc opcode payload) s = .next t → exec (.enc opcode' payload') s = .next t →
    opcode = opcode' ∧ payload.getD [] = payload'.getD []

/-- 41_framer.md, property (v), and 90_conflicts.md C3: no output of `ENC` passes `VAL`. -/
def Obligations.EncOutputNeverValidates : Prop :=
  ∀ (opcode : Byte) (payload : Option ByteSeq) (s t : State) (f : ByteSeq),
    exec (.enc opcode payload) s = .next t → .event (.tx f) ∈ t.log.drop s.log.length →
    exec (.val f) t = .next { t with log := t.log ++ [.outcome (.raise .lengthMismatch)] }

/-- A command frame travelling to the device is sent as `ENC` sends it (model's choice, log entry 6; 30_encoding.md
section 1, format CMD). -/
def Obligations.FrameCmdIsSent : Prop :=
  ∀ (opcode : Byte) (p : ByteSeq) (s : State),
    (p.length ≤ 248 →
      let covered := BitVec.ofNat 8 p.length :: opcode :: p
      let c := crcFold s.crcTable 0xFFFF#16 covered
      let frame := 0xFF#8 :: (covered ++ [BitVec.ofNat 8 (c.toNat / 256), BitVec.ofNat 8 (c.toNat % 256)])
      exec (.frameCmd opcode p) s =
        .next { s with log := s.log ++ [.event (.tx frame), .outcome (.ok (.bytes frame))] }) ∧
    (248 < p.length → exec (.frameCmd opcode p) s =
      .next { s with log := s.log ++ [.outcome (.refuse .payloadTooLong)] })

/-! The frame validator. -/

/-- 42_deframer.md R96 (decision D8): check (a), whatever the rest of the frame holds; the empty sequence too. -/
def Obligations.ValBadDelimiter : Prop :=
  ∀ (f : ByteSeq) (s : State), f[0]? ≠ some 0xFF#8 →
    exec (.val f) s = .next { s with log := s.log ++ [.outcome (.raise .badDelimiter)] }

/-- 42_deframer.md R97 (decisions D8, D18): check (b), made when (a) passed; the sum is exact. -/
def Obligations.ValLengthMismatch : Prop :=
  ∀ (f : ByteSeq) (s : State), f[0]? = some 0xFF#8 → (∀ n : Byte, f[1]? = some n → f.length ≠ n.toNat + 7) →
    exec (.val f) s = .next { s with log := s.log ++ [.outcome (.raise .lengthMismatch)] }

/-- 42_deframer.md R98: check (c), made when (a) and (b) passed: the fold over `frame[1..N+5)` against the last two
bytes, read big-endian. -/
def Obligations.ValCrcMismatch : Prop :=
  ∀ (f : ByteSeq) (n high low : Byte) (s : State), f[0]? = some 0xFF#8 → f[1]? = some n → f.length = n.toNat + 7 →
    f[n.toNat + 5]? = some high → f[n.toNat + 6]? = some low →
    (crcFold s.crcTable 0xFFFF#16 ((f.drop 1).take (n.toNat + 4))).toNat ≠ high.toNat * 256 + low.toNat →
    exec (.val f) s = .next { s with log := s.log ++ [.outcome (.raise .crcMismatch)] }

/-- 42_deframer.md R99 (decision D7): when all three checks pass, the fields exposed. -/
def Obligations.ValExposesTheFields : Prop :=
  ∀ (f : ByteSeq) (n opcode statusHigh statusLow high low : Byte) (s : State),
    f[0]? = some 0xFF#8 → f[1]? = some n → f.length = n.toNat + 7 →
    f[2]? = some opcode → f[3]? = some statusHigh → f[4]? = some statusLow →
    f[n.toNat + 5]? = some high → f[n.toNat + 6]? = some low →
    (crcFold s.crcTable 0xFFFF#16 ((f.drop 1).take (n.toNat + 4))).toNat = high.toNat * 256 + low.toNat →
    exec (.val f) s = .next { s with log := s.log ++ [.outcome (.ok (.validated
      { frame := f, n := n, opcode := opcode, status := BitVec.ofNat 16 (statusHigh.toNat * 256 + statusLow.toNat),
        payload := (f.drop 5).take n.toNat, region := (f.drop 3).take (n.toNat + 2) }))] }

/-- 42_deframer.md section 1, totality: `VAL` answers ok for no sequence shorter than 7 or longer than 262 bytes. -/
def Obligations.ValOkOnlyWithinLengths : Prop :=
  ∀ (f : ByteSeq) (s t : State) (v : ValidatedFrame), exec (.val f) s = .next t →
    t.log = s.log ++ [.outcome (.ok (.validated v))] → 7 ≤ f.length ∧ f.length ≤ 262 ∧ v.frame = f

/-- 42_deframer.md section 2, the round-trip law (90_conflicts.md C3): `VAL(rsp(op, st, d)) = ok` with the same fields,
for every table. -/
def Obligations.ResponseRoundTrip : Prop :=
  ∀ (op : Byte) (st : Word) (d : ByteSeq) (s : State), d.length ≤ 255 →
    let covered := [BitVec.ofNat 8 d.length, op, hi8 st, lo8 st] ++ d
    let c := crcFold s.crcTable 0xFFFF#16 covered
    let f := [0xFF#8] ++ covered ++ [hi8 c, lo8 c]
    exec (.val f) s = .next { s with log := s.log ++ [.outcome (.ok (.validated
      { frame := f, n := BitVec.ofNat 8 d.length, opcode := op, status := st, payload := d,
        region := [hi8 st, lo8 st] ++ d }))] }

/-- 42_deframer.md section 2, the mutation laws (90_conflicts.md C4): one byte of a valid frame changed. A changed
checksum byte is detected under every table, a changed byte before it under the default one (log entry 3). -/
def Obligations.OneChangedByteIsDetected : Prop :=
  ∀ (f : ByteSeq) (v : ValidatedFrame) (k : Nat) (b : Byte) (s : State),
    validate s.crcTable f = .ok v → k < f.length → f[k]? ≠ some b →
    (k = 0 → exec (.val (f.set k b)) s =
      .next { s with log := s.log ++ [.outcome (.raise .badDelimiter)] }) ∧
    (k = 1 → exec (.val (f.set k b)) s =
      .next { s with log := s.log ++ [.outcome (.raise .lengthMismatch)] }) ∧
    (2 ≤ k → s.crcTable = Config.defaultCrcTable ∨ v.n.toNat + 5 ≤ k → exec (.val (f.set k b)) s =
      .next { s with log := s.log ++ [.outcome (.raise .crcMismatch)] })

/-- 42_deframer.md section 2, the mutation laws: bytes appended or removed at the end of a valid frame (a removal that
leaves at least one byte; the empty sequence is BadDelimiter by check (a)). -/
def Obligations.ChangedLengthIsDetected : Prop :=
  ∀ (f : ByteSeq) (v : ValidatedFrame) (s : State), validate s.crcTable f = .ok v →
    (∀ x : ByteSeq, x ≠ [] → exec (.val (f ++ x)) s =
      .next { s with log := s.log ++ [.outcome (.raise .lengthMismatch)] }) ∧
    (∀ j, 0 < j → j < f.length → exec (.val (f.take j)) s =
      .next { s with log := s.log ++ [.outcome (.raise .lengthMismatch)] })

/-- 60_exceptions.md R161 (decision D16). -/
def Obligations.ResultCodesFollowTheChecks : Prop :=
  (∀ v, resultCode (.ok v) = 0) ∧ resultCode (.error .badDelimiter) = 1 ∧
  resultCode (.error .lengthMismatch) = 2 ∧ resultCode (.error .crcMismatch) = 3

/-! The synchronizer. -/

/-- 43_synchronizer.md R112 (decision D12). -/
def Obligations.RxByteInHunt : Prop :=
  ∀ (b : Byte) (s : State), s.synBuf = [] →
    exec (.rxByte b) s = .next { s with
      synBuf := if b = 0xFF#8 then [0xFF#8] else [], log := s.log ++ [.outcome (.ok .none)] }

/-- 43_synchronizer.md R113 (decisions D12, D14): whatever its value the byte is appended as the length byte, and
nothing is emitted. -/
def Obligations.RxByteInLen : Prop :=
  ∀ (d b : Byte) (s : State), s.synBuf = [d] →
    exec (.rxByte b) s = .next { s with synBuf := [d, b], log := s.log ++ [.outcome (.ok .none)] }

/-- 43_synchronizer.md R114 (decisions D12, D15): the byte is appended; the one that completes the candidate empties
the buffer and delivers the candidate with the result of `VAL`, within the same operation. -/
def Obligations.RxByteInBody : Prop :=
  ∀ (n b : Byte) (s : State), s.synBuf[1]? = some n →
    (s.synBuf.length + 1 = n.toNat + 7 → exec (.rxByte b) s = .next { s with
      synBuf := [],
      log := s.log ++ [.event (.deliver (s.synBuf ++ [b]) (validate s.crcTable (s.synBuf ++ [b]))),
        .outcome (.ok .none)] }) ∧
    (s.synBuf.length + 1 ≠ n.toNat + 7 → exec (.rxByte b) s = .next { s with
      synBuf := s.synBuf ++ [b], log := s.log ++ [.outcome (.ok .none)] })

/-- 43_synchronizer.md R115 (decision D13). -/
def Obligations.SynClearResult : Prop :=
  ∀ s : State, decode s.crcTable (.op 0x8 .z) = .ok .synClear ∧
    exec .synClear s = .next { s with synBuf := [], log := s.log ++ [.outcome (.ok .none)] }

/-- 43_synchronizer.md section 4, what is delivered: from a buffer that meets its invariants, a delivered candidate
opens with the delimiter, is as long as its length byte says, and its result is ok or CrcMismatch. -/
def Obligations.DeliveredCandidatesAreShaped : Prop :=
  ∀ (b : Byte) (s t : State) (f : ByteSeq) (r : ValResult), synInv s.synBuf = true →
    exec (.rxByte b) s = .next t → .event (.deliver f r) ∈ t.log.drop s.log.length →
    f[0]? = some 0xFF#8 ∧ (∃ n : Byte, f[1]? = some n ∧ f.length = n.toNat + 7) ∧
    7 ≤ f.length ∧ f.length ≤ 262 ∧ (r = .error .crcMismatch ∨ ∃ v, r = .ok v ∧ v.frame = f)

/-- 43_synchronizer.md section 4, the clean-stream law: gaps without 0xFF around well-formed response frames, their
checksums right or wrong; exactly the frames are delivered, in order, and the buffer ends empty. -/
def Obligations.CleanStreamIsDelivered : Prop :=
  ∀ (pieces : List (ByteSeq × ByteSeq)) (lastGap : ByteSeq) (s : State), s.synBuf = [] →
    (∀ p ∈ pieces, 0xFF#8 ∉ p.1 ∧ p.2[0]? = some 0xFF#8 ∧
      ∃ n : Byte, p.2[1]? = some n ∧ p.2.length = n.toNat + 7) →
    0xFF#8 ∉ lastGap →
    ∃ t, execAll (rxByteInstrs (pieces.flatMap (fun p => p.1 ++ p.2) ++ lastGap)) s = .next t ∧
      t.synBuf = [] ∧ t.crcAcc = s.crcAcc ∧
      eventsOf t.log = eventsOf s.log ++ pieces.map (fun p => .deliver p.2 (validate s.crcTable p.2))

/-- 43_synchronizer.md section 4, loss of synchronization (i): a stray 0xFF before a frame makes the frame's own 0xFF a
length of 255; up to 259 bytes after it are swallowed and nothing is delivered. -/
def Obligations.StrayDelimiterSwallowsWhatFollows : Prop :=
  ∀ (bytes : ByteSeq) (s : State), s.synBuf = [0xFF#8] → bytes.length < 260 →
    ∃ t, execAll (rxByteInstrs (0xFF#8 :: bytes)) s = .next t ∧
      t.synBuf = 0xFF#8 :: 0xFF#8 :: bytes ∧ eventsOf t.log = eventsOf s.log

/-- A response frame travelling to the host is its bytes arriving one by one (model's choice, log entry 7;
30_encoding.md sections 1 and 5). -/
def Obligations.FrameRspIsItsBytesArriving : Prop :=
  ∀ (op : Byte) (st : Word) (p : ByteSeq) (ck : Word) (s : State),
    ∃ t, exec (.frameRsp op st p ck) s = .next t ∧
      execAll (rxByteInstrs ([0xFF#8, BitVec.ofNat 8 p.length, op, hi8 st, lo8 st] ++ p ++ [hi8 ck, lo8 ck])) s =
        .next t

/-- A response frame that arrives between frames is delivered whole, once, at its last byte (model's choice, log entry
7; 43_synchronizer.md section 4, the clean-stream law). -/
def Obligations.FrameRspIsDelivered : Prop :=
  ∀ (op : Byte) (st : Word) (p : ByteSeq) (ck : Word) (s : State), s.synBuf = [] → p.length ≤ 255 →
    let f := [0xFF#8, BitVec.ofNat 8 p.length, op, hi8 st, lo8 st] ++ p ++ [hi8 ck, lo8 ck]
    exec (.frameRsp op st p ck) s = .next { s with
      log := s.log ++ List.replicate (p.length + 6) (.outcome (.ok .none)) ++
        [.event (.deliver f (validate s.crcTable f)), .outcome (.ok .none)] }

/-! Reset and the reserved codes as instructions. -/

/-- 70_reset_and_hazards.md R180 (decision D17): both registers at their reset values, no event, the table unaffected. -/
def Obligations.ResetResult : Prop :=
  ∀ s : State, decode s.crcTable (.op 0xF .z) = .ok .reset ∧ exec .reset s =
    .next { s with crcAcc := 0xFFFF#16, synBuf := [], log := s.log ++ [.outcome (.ok .none)] }

/-- 30_encoding.md R59 (decision D2), as instructions: each of the six ends in its refusal and changes nothing else. -/
def Obligations.ReservedOperationsResult : Prop :=
  ∀ s : State,
    exec .reserved9 s = .next { s with log := s.log ++ [.outcome (.refuse .reservedOperation)] } ∧
    exec .reservedA s = .next { s with log := s.log ++ [.outcome (.refuse .reservedOperation)] } ∧
    exec .reservedB s = .next { s with log := s.log ++ [.outcome (.refuse .reservedOperation)] } ∧
    exec .reservedC s = .next { s with log := s.log ++ [.outcome (.refuse .reservedOperation)] } ∧
    exec .reservedD s = .next { s with log := s.log ++ [.outcome (.refuse .reservedOperation)] } ∧
    exec .reservedE s = .next { s with log := s.log ++ [.outcome (.refuse .reservedOperation)] }

/-! The whole machine. -/

/-- The invariant every step keeps: `SYN.BUF` as 10_state.md section 3 says, every frame sent as 41_framer.md
guarantees, every candidate delivered shaped and with its true result (43_synchronizer.md section 4). -/
def Obligations.StepKeepsTheInvariant : Prop :=
  ∀ s t : State, s.Inv → core.step s = .next t → State.Inv t

/-- The invariant holds right after reset. -/
def Obligations.ResetMeetsTheInvariant : Prop := State.Inv core.reset

/-- 10_state.md section 3: in a state that meets the invariant the buffer holds at most 261 bytes, and where
`SYN.NEED` is defined it is 1 to 260. -/
def Obligations.SynBufIsBounded : Prop :=
  ∀ s : State, s.Inv → s.synBuf.length ≤ 261 ∧ ∀ k, synNeed s.synBuf = some k → 1 ≤ k ∧ k ≤ 260

/-- 10_state.md section 1, columns Written by, for the operations: no other one changes `CRC.ACC` or `SYN.BUF`. That
FRAME.RSP writes `SYN.BUF` and FRAME.CMD writes neither is the model's choice (log entries 7 and 6). -/
def Obligations.OnlyNamedInstructionsWrite : Prop :=
  ∀ (i : Instr) (s t : State), exec i s = .next t →
    (i.writesAcc = false → t.crcAcc = s.crcAcc) ∧ (i.writesBuf = false → t.synBuf = s.synBuf)

/-- 10_state.md section 2 and 20_memory.md section 6: no step changes the table or rewrites what has been observed;
events and outcomes come out in the order of the operations. -/
def Obligations.TableAndPastAreKept : Prop :=
  ∀ s t : State, step s = .next t → t.crcTable = s.crcTable ∧ ∃ more, t.log = s.log ++ more

/-- 70_reset_and_hazards.md section 3, the shared accumulator, and 10_state.md section 2: what an instruction leaves
in `CRC.ACC` depends on `CRC.ACC` and the table alone, and what it leaves in `SYN.BUF` on `SYN.BUF` and the table
alone. For FRAME.CMD and FRAME.RSP it rests on what the model chose them to do (log entries 6 and 7). -/
def Obligations.UnitsDoNotInterfere : Prop :=
  ∀ (i : Instr) (s s' t t' : State), exec i s = .next t → exec i s' = .next t' → s.crcTable = s'.crcTable →
    (s.crcAcc = s'.crcAcc → t.crcAcc = t'.crcAcc) ∧ (s.synBuf = s'.synBuf → t.synBuf = t'.synBuf)

/-- 60_exceptions.md R163 (decisions D2, D9, D11, D24): an operation is refused exactly where its precondition fails,
for the reason given; it then changes no state and emits no event; where it does not fail, no refusal is recorded.
(A command frame is refused as the `ENC` that sends it, log entry 6.) -/
def Obligations.RefusalsAreExact : Prop :=
  ∀ (i : Instr) (s : State),
    (∀ r, refusedFor i = some r → exec i s = .next { s with log := s.log ++ [.outcome (.refuse r)] }) ∧
    (refusedFor i = none → ∀ t r, exec i s = .next t → .outcome (.refuse r) ∉ t.log.drop s.log.length)

/-! The surrounding software (45_environment.md), recorded at the block's boundary (log entry 15). -/

/-- 45_environment.md section 2, power: the magnitude in centi-dBm to the nearest integer, clamped to 2700, the sign
dropped, whatever the tie rule; the document's two examples and their payloads. dBm is an exact rational by the model's
choice (log entry 16). -/
def Obligations.PowerIsClampedMagnitude : Prop :=
  ∀ tie : TieRule,
    (∀ x : ℚ, powerOf tie x ≤ 2700 ∧ powerOf tie (-x) = powerOf tie x ∧
      (abs (x * 100) ≤ 2700 → abs ((powerOf tie x : ℚ) - abs (x * 100)) ≤ 1 / 2) ∧
      (2700 ≤ abs (x * 100) → powerOf tie x = 2700)) ∧
    powerOf tie 30 = 2700 ∧ powerOf tie (-505 / 100) = 505 ∧
    powerPayload tie 30 = [0x0A, 0x8C] ∧ powerPayload tie (-505 / 100) = [0x01, 0xF9]

/-- 45_environment.md section 3, classification: `onTag` is invoked exactly for a valid tag report with status zero
whose length is not the marker's; in particular not for a keep-alive and not for a zero-tag marker. That it is invoked,
with no record, for such a report of which the Tag Decoder yields no record is the model's choice (log entry 17). -/
def Obligations.OnlyTagReportsReachTheCaller : Prop :=
  ∀ (p : HostParams) (r : ValResult), p.wellFormed = true →
    ((∃ record, listen p r = .onTag record) ↔
      ∃ v, r = .ok v ∧ v.opcode = p.opTagReport ∧ v.status = 0 ∧ v.n.toNat ≠ p.lenZeroTagMarker) ∧
    (listen p r = .dropped ∨ ∃ v, r = .ok v ∧ listen p r = .onTag (decodeTag p v.frame))

/-- 45_environment.md section 4, the Tag Decoder's fixed offsets, with the document's base 31 and trim 4 (open question),
on a frame of at least the bytes 90_conflicts.md C5 asks for; that a shorter frame gives no record is the model's choice
(log entry 17). -/
def Obligations.TagDecoderReadsItsOffsets : Prop :=
  ∀ (p : HostParams) (f : ByteSeq) (rssi auxHigh auxLow epcHigh epcLow : Byte), p.epcBase = 31 → p.epcTrim = 4 →
    f[12]? = some rssi → f[24]? = some auxHigh → f[25]? = some auxLow → f[27]? = some epcHigh →
    f[28]? = some epcLow →
    let dataBytes := (auxHigh.toNat * 256 + auxLow.toNat + 7) / 8
    let epcBytes := (epcHigh.toNat * 256 + epcLow.toNat + 7) / 8
    4 ≤ epcBytes →
    (31 + dataBytes + (epcBytes - 4) + 2 ≤ f.length →
      decodeTag p f = some { epc := (f.drop (31 + dataBytes)).take (epcBytes - 4), rssi := rssi }) ∧
    (f.length < 31 + dataBytes + (epcBytes - 4) + 2 → decodeTag p f = none)

/-- 45_environment.md sections 2 and 3, the host's preconditions: no call before the transport is ready, none while a
command is outstanding, none but the stop while Streaming; and otherwise the call goes out. -/
def Obligations.HostKeepsItsPreconditions : Prop :=
  ∀ (p : HostParams) (h : HostState) (call : HostCall),
    ((∃ h' i, hostCall p h call = .ok (h', i)) ↔
      (h.ready = true ∧ h.outstanding = none ∧ (h.mode = .streaming → call = .unary .stopReading))) ∧
    ∀ h' i, hostCall p h call = .ok (h', i) → i = call.command p

/-- 45_environment.md section 3: the listener is attached exactly while Streaming, from the start on, through every
call and every delivery; an acknowledged stop leaves Idle and no listener. -/
def Obligations.ListenerFollowsTheMode : Prop :=
  HostState.Inv HostState.initial ∧
  (∀ h : HostState, h.Inv → HostState.Inv h.onReady) ∧
  (∀ (p : HostParams) (h h' : HostState) (call : HostCall) (i : Instr), h.Inv →
    hostCall p h call = .ok (h', i) → h'.Inv) ∧
  (∀ (p : HostParams) (h : HostState) (choice : DrainChoice) (r : ValResult), h.Inv →
    HostState.Inv (hostDeliver p h choice r).1) ∧
  (∀ (p : HostParams) (h : HostState) (v : ValidatedFrame), h.outstanding = some .stopReading →
    (hostDeliver p h .toCorrelator (.ok v)).1.mode = .idle ∧
    (hostDeliver p h .toCorrelator (.ok v)).1.listener = false ∧
    (hostDeliver p h .toCorrelator (.ok v)).1.outstanding = none)

/-- 45_environment.md section 2: the one outstanding unary call resolves with the very next delivered frame, whatever its
opcode, and the typed decode of its payload, or fails with its error; nothing is outstanding after it. A power reply's
two bytes, at an open offset, are divided by 100; where they stand in the payload, and the version's decode, are open
(log entry 19). -/
def Obligations.NextFrameAnswersTheCommand : Prop :=
  (∀ (p : HostParams) (h : HostState) (choice : DrainChoice) (call : UnaryCall), h.outstanding = some call →
    call ≠ .stopReading → h.listener = false →
    (∀ v, hostDeliver p h choice (.ok v) =
      ({ h with outstanding := none }, .resolved call v (call.decodeReply p v.payload))) ∧
    (∀ e, hostDeliver p h choice (.error e) = ({ h with outstanding := none }, .failed call e))) ∧
  (∀ (p : HostParams) (payload : ByteSeq) (high low : Byte),
    (payload[p.readPowerOffset]? = some high → payload[p.readPowerOffset + 1]? = some low →
      UnaryCall.getReadPower.decodeReply p payload =
        some (.power (((high.toNat * 256 + low.toNat : ℕ) : ℚ) / 100))) ∧
    (payload[p.writePowerOffset]? = some high → payload[p.writePowerOffset + 1]? = some low →
      UnaryCall.getWritePower.decodeReply p payload =
        some (.power (((high.toNat * 256 + low.toNat : ℕ) : ℚ) / 100))))
end

