-- ==== Sys2Proof/Laws/Operands.lean ====
section
/-! SUPPORT. Small lemmas of the operand forms: bytes and words, slices, `MemRead`, `MemWrite`. -/
namespace Sys2Proof.Machine

/-! The named widths as numbers. -/

@[simp] theorem nibW_eq : Config.nibW = 4 := rfl
@[simp] theorem byteW_eq : Config.byteW = 8 := rfl
@[simp] theorem crcW_eq : Config.crcW = 16 := rfl
@[simp] theorem crcBytes_eq : Config.crcBytes = 2 := rfl
@[simp] theorem maxLenByte_eq : Config.maxLenByte = 255 := rfl
theorem synCap_eq : Config.synCap = 262 := rfl


theorem hi8_toNat (v : Word) : (hi8 v).toNat = v.toNat / 256 := by
  have := v.isLt
  simp [hi8, Nat.shiftRight_eq_div_pow]; omega

theorem lo8_toNat (v : Word) : (lo8 v).toNat = v.toNat % 256 := by
  simp [lo8]

theorem hi4_toNat (b : Byte) : (hi4 b).toNat = b.toNat / 16 := by
  have := b.isLt
  simp [hi4, Nat.shiftRight_eq_div_pow]; omega

theorem lo4_toNat (b : Byte) : (lo4 b).toNat = b.toNat % 16 := by
  simp [lo4]

theorem be16_toNat (h l : Byte) : (be16 h l).toNat = h.toNat * 256 + l.toNat := by
  have := h.isLt
  have := l.isLt
  simp [be16]; omega

@[simp] theorem hi8_be16 (h l : Byte) : hi8 (be16 h l) = h := by
  apply BitVec.eq_of_toNat_eq
  have := l.isLt
  rw [hi8_toNat, be16_toNat]; omega

@[simp] theorem lo8_be16 (h l : Byte) : lo8 (be16 h l) = l := by
  apply BitVec.eq_of_toNat_eq
  have := l.isLt
  rw [lo8_toNat, be16_toNat]; omega

@[simp] theorem be16_hi8_lo8 (v : Word) : be16 (hi8 v) (lo8 v) = v := by
  apply BitVec.eq_of_toNat_eq
  rw [be16_toNat, hi8_toNat, lo8_toNat]; omega

/-- Two bytes that make the same word are the same bytes. -/
theorem be16_inj (h l h' l' : Byte) : be16 h l = be16 h' l' ↔ h = h' ∧ l = l' := by
  constructor
  · intro e
    exact ⟨by simpa using congrArg hi8 e, by simpa using congrArg lo8 e⟩
  · rintro ⟨rfl, rfl⟩; rfl

/-- Two bytes as one big-endian value. -/
theorem beNat_pair (h l : Byte) : beNat [h, l] = (be16 h l).toNat := by
  simp [beNat, be16_toNat]

/-- A `MemRead` of one word inside the buffer. -/
theorem memRead_two_append (pre : ByteSeq) (h l : Byte) (post : ByteSeq) :
    memRead (pre ++ h :: l :: post) pre.length 2 = some (be16 h l).toNat := by
  simp [memRead, slice, beNat, be16_toNat, List.take_append]

/-- A `MemRead` of the two bytes that stand at an offset. -/
theorem memRead_two (buf : ByteSeq) (off : Nat) (h l : Byte) (hh : buf[off]? = some h) (hl : buf[off + 1]? = some l) :
    memRead buf off 2 = some (h.toNat * 256 + l.toNat) := by
  obtain ⟨hlt, rfl⟩ := List.getElem?_eq_some_iff.mp hl
  obtain ⟨_, rfl⟩ := List.getElem?_eq_some_iff.mp hh
  have hin : off + 2 ≤ buf.length := by omega
  have h0 : off < (buf.take (off + 2)).length := by simp; omega
  have h1 : off + 1 < (buf.take (off + 2)).length := by simp; omega
  rw [memRead, if_pos hin, slice, List.drop_eq_getElem_cons h0, List.drop_eq_getElem_cons h1]
  simp [beNat]

theorem memRead_eq_none (buf : ByteSeq) (off n : Nat) : memRead buf off n = none ↔ buf.length < off + n := by
  simp [memRead]

/-- `MemWrite` of one byte. -/
theorem memWrite_byte (buf : ByteSeq) (off : Nat) (v : Nat) :
    memWrite buf off 1 v = buf.set off (BitVec.ofNat 8 v) := by
  simp [memWrite]

/-- `MemWrite` of a 16-bit value: the high byte at the lower offset. -/
theorem memWrite_word (buf : ByteSeq) (off : Nat) (v : Word) :
    memWrite buf off 2 v.toNat = (buf.set off (hi8 v)).set (off + 1) (lo8 v) := by
  have h1 : BitVec.ofNat 8 (v.toNat / 256) = hi8 v := by
    apply BitVec.eq_of_toNat_eq
    have := v.isLt
    rw [hi8_toNat]; simp; omega
  have h2 : BitVec.ofNat 8 v.toNat = lo8 v := by
    apply BitVec.eq_of_toNat_eq
    rw [lo8_toNat]; simp
  simp [memWrite, h1, h2]

@[simp] theorem memWrite_length (n : Nat) (buf : ByteSeq) (off v : Nat) :
    (memWrite buf off n v).length = buf.length := by
  induction n generalizing buf off with
  | zero => rfl
  | succ n ih => simp [memWrite, ih]

/-- Bytes written one after another replace what stood there. -/
theorem memWriteAll_append (pre mid post s : ByteSeq) (h : mid.length = s.length) :
    memWriteAll (pre ++ mid ++ post) pre.length s = pre ++ s ++ post := by
  induction s generalizing pre mid with
  | nil =>
    have : mid = [] := by simpa using h
    simp [memWriteAll, this]
  | cons b rest ih =>
    obtain ⟨m, mid, rfl⟩ : ∃ m mid', mid = m :: mid' := by
      cases mid with
      | nil => simp at h
      | cons m mid' => exact ⟨m, mid', rfl⟩
    have hset : (pre ++ m :: mid ++ post).set pre.length (BitVec.ofNat 8 b.toNat)
        = (pre ++ [b]) ++ mid ++ post := by
      simp
    have := ih (pre ++ [b]) mid (by simpa using h)
    simp only [List.length_append, List.length_cons, List.length_nil] at this
    rw [memWriteAll, memWrite_byte, hset, this]
    simp

@[simp] theorem slice_length (s : ByteSeq) (i j : Nat) (h : j ≤ s.length) : (slice s i j).length = j - i := by
  simp [slice]; omega

/-- The slice that stands between two pieces. -/
theorem slice_append (pre mid post : ByteSeq) :
    slice (pre ++ (mid ++ post)) pre.length (pre.length + mid.length) = mid := by
  simp [slice, List.take_append]
end Sys2Proof.Machine
end

