-- ==== Sys2Proof/Laws/Frames.lean ====
section
/-! SUPPORT. Lemmas of the checksum and of the two frame formats. -/
namespace Sys2Proof.Machine

/-- The nibble that chooses the table entry, with its widths as numbers. -/
theorem topNibble_eq (c : Word) : topNibble c = c.extractLsb' 12 4 := rfl

/-- The nibble step, with its widths as numbers. -/
theorem crcStep_eq (t : CrcTable) (c : Word) (n : Nibble) :
    crcStep t c n = ((((c.setWidth 20) <<< 4) ||| n.setWidth 20) ^^^
      (tableEntry t (topNibble c)).setWidth 20).setWidth 16 := rfl

@[simp] theorem crcFold_nil (t : CrcTable) (c : Word) : crcFold t c [] = c := rfl

@[simp] theorem crcFold_cons (t : CrcTable) (c : Word) (b : Byte) (s : ByteSeq) :
    crcFold t c (b :: s) = crcFold t (crcByteStep t c b) s := rfl

/-- The fold over two pieces is the fold over the second from the fold over the first. -/
theorem crcFold_append (t : CrcTable) (c : Word) (s u : ByteSeq) :
    crcFold t c (s ++ u) = crcFold t (crcFold t c s) u := List.foldl_append

/-- `checksum` of a range inside its buffer is the fold over the piece that stands there. -/
theorem checksum_append (t : CrcTable) (pre mid post : ByteSeq) :
    checksum t (pre ++ (mid ++ post)) pre.length mid.length = some (crcFold t Config.crcInit mid) := by
  have h : pre.length + mid.length ≤ (pre ++ (mid ++ post)).length := by simp
  simp only [checksum, if_pos h, slice_append]

theorem checksum_eq_none (t : CrcTable) (s : ByteSeq) (off n : Nat) :
    checksum t s off n = none ↔ s.length < off + n := by
  simp [checksum]

@[simp] theorem commandCovered_length (op : Byte) (p : ByteSeq) : (commandCovered op p).length = p.length + 2 := by
  simp [commandCovered]

@[simp] theorem commandFrame_length (t : CrcTable) (op : Byte) (p : ByteSeq) :
    (commandFrame t op p).length = p.length + 5 := by
  simp [commandFrame, be16Bytes]

@[simp] theorem responseCovered_length (op : Byte) (st : Word) (p : ByteSeq) :
    (responseCovered op st p).length = p.length + 4 := by
  simp [responseCovered, be16Bytes]

@[simp] theorem responseFrame_length (op : Byte) (st : Word) (p : ByteSeq) (ck : Word) :
    (responseFrame op st p ck).length = p.length + 7 := by
  simp [responseFrame, be16Bytes]

/-- The encoder's construction, byte by byte, makes the frame the format describes. -/
theorem buildCommandFrame_eq (t : CrcTable) (op : Byte) (p : ByteSeq) (h : p.length ≤ 248) :
    buildCommandFrame t op p = some (commandFrame t op p) := by
  have hn : ¬ p.length > Config.maxN := by simpa using h
  have hnew : List.replicate (p.length + Config.ovhCmd) (0#8)
      = 0 :: 0 :: 0 :: (List.replicate p.length 0#8 ++ [0#8, 0#8]) := by
    have : p.length + Config.ovhCmd = 3 + (p.length + 2) := by simp only [Config.ovhCmd]; omega
    rw [this, List.replicate_add, List.replicate_add]; rfl
  have hop : BitVec.ofNat 8 op.toNat = op := by simp
  have hbody := memWriteAll_append [Config.delim, BitVec.ofNat 8 p.length, op]
    (List.replicate p.length 0#8) [0#8, 0#8] p (by simp)
  have hck := checksum_append t [Config.delim] (commandCovered op p) [0#8, 0#8]
  simp only [List.length_cons, List.length_nil, commandCovered,
    List.cons_append, List.nil_append] at hbody hck
  unfold buildCommandFrame
  simp only [if_neg hn, hnew, memWrite_byte]
  simp only [List.set_cons_zero, List.set_cons_succ, hop]
  rw [show (BitVec.ofNat 8 Config.delim.toNat) = Config.delim by decide, hbody]
  simp only [Nat.zero_add] at hck ⊢
  rw [hck]
  simp only [Option.map_some, crcBytes_eq, memWrite_word, Option.some.injEq, commandFrame, commandCovered, be16Bytes,
    List.cons_append]
  rw [show 3 + p.length = p.length + 1 + 1 + 1 by omega]
  simp

theorem buildCommandFrame_eq_none (t : CrcTable) (op : Byte) (p : ByteSeq) (h : 248 < p.length) :
    buildCommandFrame t op p = none := by
  have hn : p.length > Config.maxN := by simpa using h
  simp only [buildCommandFrame, if_pos hn]

end Sys2Proof.Machine
end

