-- ==== Sys2Proof/Laws/Deframer.lean ====
section
/-! SUPPORT. What `VAL` answers, case by case. -/
namespace Sys2Proof.Machine

/-- A byte sequence that passes checks (a) and (b) is a response frame, its checksum right or wrong. -/
theorem exists_responseFrame (f : ByteSeq) (n : Byte) (h0 : f[0]? = some Config.delim) (h1 : f[1]? = some n)
    (hlen : f.length = n.toNat + 7) :
    ∃ op st p ck, f = responseFrame op st p ck ∧ p.length = n.toNat := by
  match f, h0, h1, hlen with
  | [], h0, _, _ => simp at h0
  | [_], _, h1, _ => simp at h1
  | [_, _], _, _, hlen => simp at hlen
  | [_, _, _], _, _, hlen => simp at hlen
  | [_, _, _, _], _, _, hlen => simp at hlen
  | d :: m :: op :: sh :: sl :: rest, h0, h1, hlen =>
    simp only [List.getElem?_cons_zero, List.getElem?_cons_succ, Option.some.injEq] at h0 h1
    subst h0 h1
    simp only [List.length_cons] at hlen
    have hdrop : (rest.drop m.toNat).length = 2 := by simp; omega
    obtain ⟨ch, cl, hc⟩ := List.length_eq_two.mp hdrop
    have htake : (rest.take m.toNat).length = m.toNat := by simp; omega
    refine ⟨op, be16 sh sl, rest.take m.toNat, be16 ch cl, ?_, htake⟩
    have hm : BitVec.ofNat 8 (rest.take m.toNat).length = m := by rw [htake]; simp
    simp only [responseFrame, responseCovered, be16Bytes, hm, hi8_be16, lo8_be16, List.cons_append,
      List.nil_append]
    rw [← hc, List.take_append_drop]

/-- `VAL` on a sequence that opens with the delimiter and holds at least five bytes. -/
theorem validate_cons (t : CrcTable) (n op sh sl : Byte) (rest : ByteSeq) :
    validate t (Config.delim :: n :: op :: sh :: sl :: rest) =
      if (Config.delim :: n :: op :: sh :: sl :: rest).length ≠ n.toNat + 7 then .error .lengthMismatch
      else if checksum t (Config.delim :: n :: op :: sh :: sl :: rest) 1 (n.toNat + 4) ≠
          (memRead (Config.delim :: n :: op :: sh :: sl :: rest) (n.toNat + 5) 2).map (BitVec.ofNat 16) then
        .error .crcMismatch
      else
        .ok { frame := Config.delim :: n :: op :: sh :: sl :: rest, n := n, opcode := op, status := be16 sh sl,
              payload := slice (Config.delim :: n :: op :: sh :: sl :: rest) 5 (5 + n.toNat),
              region := slice (Config.delim :: n :: op :: sh :: sl :: rest) 3 (5 + n.toNat) } := by
  have h := memRead_two_append [Config.delim, n, op] sh sl rest
  simp only [List.cons_append, List.nil_append, List.length_cons, List.length_nil, Nat.zero_add,
    Nat.reduceAdd] at h
  simp only [validate, List.getElem?_cons_zero, List.getElem?_cons_succ, ne_eq, not_true_eq_false, if_false, h,
    BitVec.ofNat_toNat, BitVec.setWidth_eq]
  rfl

/-- `VAL` on a response frame: all that is left to decide is the checksum. -/
theorem validate_responseFrame (t : CrcTable) (op : Byte) (st : Word) (p : ByteSeq) (ck : Word)
    (h : p.length ≤ 255) :
    validate t (responseFrame op st p ck) =
      if ck = crcFold t Config.crcInit (responseCovered op st p) then
        .ok { frame := responseFrame op st p ck, n := BitVec.ofNat 8 p.length, opcode := op, status := st,
              payload := p, region := hi8 st :: lo8 st :: p }
      else .error .crcMismatch := by
  have hn : (BitVec.ofNat 8 p.length).toNat = p.length := by
    simp; omega
  have hck := checksum_append t [Config.delim] (responseCovered op st p) (be16Bytes ck)
  have hmem := memRead_two_append (Config.delim :: responseCovered op st p) (hi8 ck) (lo8 ck) []
  have hpay := slice_append (Config.delim :: BitVec.ofNat 8 p.length :: op :: [hi8 st, lo8 st]) p (be16Bytes ck)
  have hreg := slice_append (Config.delim :: BitVec.ofNat 8 p.length :: [op]) (hi8 st :: lo8 st :: p) (be16Bytes ck)
  have hlen := responseFrame_length op st p ck
  simp only [List.length_cons, List.length_nil, responseCovered, be16Bytes, be16_hi8_lo8,
    List.cons_append, List.nil_append, Nat.zero_add, Nat.reduceAdd] at hck hmem hpay hreg
  by_cases e : ck = crcFold t Config.crcInit (responseCovered op st p)
  · rw [if_pos e]
    simp only [responseFrame, responseCovered, be16Bytes, List.cons_append, List.nil_append] at hlen e ⊢
    rw [validate_cons, hlen]
    simp only [hn, ne_eq, not_true_eq_false, if_false, hck, hmem, Option.map_some, hpay, BitVec.ofNat_toNat,
      BitVec.setWidth_eq, Option.some.injEq, be16_hi8_lo8, ite_not]
    rw [show 5 + p.length = 3 + (p.length + 1 + 1) by omega, hreg, if_pos e.symm]
  · rw [if_neg e]
    simp only [responseFrame, responseCovered, be16Bytes, List.cons_append, List.nil_append] at hlen e ⊢
    rw [validate_cons, hlen]
    simp only [hn, ne_eq, not_true_eq_false, if_false, hck, hmem, Option.map_some, hpay, BitVec.ofNat_toNat,
      BitVec.setWidth_eq, Option.some.injEq, be16_hi8_lo8, ite_not]
    rw [show 5 + p.length = 3 + (p.length + 1 + 1) by omega, hreg, if_neg (Ne.symm e)]

/-- Check (a) fails. -/
theorem validate_badDelimiter (t : CrcTable) (f : ByteSeq) (h : f[0]? ≠ some Config.delim) :
    validate t f = .error .badDelimiter := by
  simp only [validate, if_pos h]

/-- Check (a) passes and check (b) fails. -/
theorem validate_lengthMismatch (t : CrcTable) (f : ByteSeq) (h0 : f[0]? = some Config.delim)
    (h : ∀ n, f[1]? = some n → f.length ≠ n.toNat + 7) : validate t f = .error .lengthMismatch := by
  simp only [validate, h0, ne_eq, not_true_eq_false, if_false]
  split
  · rename_i n _ _ h1 _ _
    rw [if_pos (h n h1)]
  · rfl

/-- What `VAL` can answer: one of the three errors, or the fields of a response frame whose checksum is right. -/
theorem validate_cases (t : CrcTable) (f : ByteSeq) :
    (f[0]? ≠ some Config.delim ∧ validate t f = .error .badDelimiter) ∨
    (f[0]? = some Config.delim ∧ (∀ n, f[1]? = some n → f.length ≠ n.toNat + 7) ∧
      validate t f = .error .lengthMismatch) ∨
    (∃ op st p ck, f = responseFrame op st p ck ∧ p.length ≤ 255 ∧
      validate t f = if ck = crcFold t Config.crcInit (responseCovered op st p) then
        .ok { frame := f, n := BitVec.ofNat 8 p.length, opcode := op, status := st,
              payload := p, region := hi8 st :: lo8 st :: p }
      else .error .crcMismatch) := by
  by_cases h0 : f[0]? = some Config.delim
  · by_cases h : ∀ n, f[1]? = some n → f.length ≠ n.toNat + 7
    · exact .inr (.inl ⟨h0, h, validate_lengthMismatch t f h0 h⟩)
    · push Not at h
      obtain ⟨n, h1, hlen⟩ := h
      obtain ⟨op, st, p, ck, rfl, hp⟩ := exists_responseFrame f n h0 h1 hlen
      have hp' : p.length ≤ 255 := by have := n.isLt; omega
      exact .inr (.inr ⟨op, st, p, ck, rfl, hp', validate_responseFrame t op st p ck hp'⟩)
  · exact .inl ⟨h0, validate_badDelimiter t f h0⟩

end Sys2Proof.Machine
end

