-- ==== Sys2Proof/Laws/Environment.lean ====
section
/-! SUPPORT. Small lemmas of the surrounding software: what an answered call leaves, and what the decoders read. -/
namespace Sys2Proof.Machine

/-- The set-power value, with its constants as numbers. -/
theorem powerOf_eq (tie : TieRule) (dBm : ℚ) : powerOf tie dBm = min (roundNat tie |dBm * 100|) 2700 := by
  simp [powerOf]

/-- The power a reply's value stands for, with its constant as a number. -/
theorem powerDecode_eq (v : Word) : powerDecode v = (v.toNat : ℚ) / 100 := by
  simp [powerDecode]

@[simp] theorem HostState.answered_outstanding (h : HostState) (call : UnaryCall) :
    (h.answered call).outstanding = none := by
  cases call <;> rfl

@[simp] theorem HostState.answered_ready (h : HostState) (call : UnaryCall) : (h.answered call).ready = h.ready := by
  cases call <;> rfl

/-- Only the stop, once answered, changes the mode and the listener. -/
theorem HostState.answered_of_ne (h : HostState) (call : UnaryCall) (hc : call ≠ .stopReading) :
    h.answered call = { h with outstanding := none } := by
  cases call <;> first | rfl | exact absurd rfl hc

/-- A power whose two bytes stand in the payload. -/
theorem decodePower_eq (payload : ByteSeq) (offset : Nat) (high low : Byte) (hh : payload[offset]? = some high)
    (hl : payload[offset + 1]? = some low) :
    decodePower payload offset = some (powerDecode (be16 high low)) := by
  rw [decodePower, memRead_two payload offset high low hh hl]; rfl

end Sys2Proof.Machine
end

