-- ==== Sys2Proof/Laws/State.lean ====
section
/-! SUPPORT. One lemma per field per update of the state, so that no later proof unfolds an update. -/
namespace Sys2Proof.Machine

@[simp] theorem State.setAcc_crcAcc (s : State) (v : Word) : (s.setAcc v).crcAcc = v := rfl
@[simp] theorem State.setAcc_synBuf (s : State) (v : Word) : (s.setAcc v).synBuf = s.synBuf := rfl
@[simp] theorem State.setAcc_crcTable (s : State) (v : Word) : (s.setAcc v).crcTable = s.crcTable := rfl
@[simp] theorem State.setAcc_pending (s : State) (v : Word) : (s.setAcc v).pending = s.pending := rfl
@[simp] theorem State.setAcc_log (s : State) (v : Word) : (s.setAcc v).log = s.log := rfl

@[simp] theorem State.setBuf_crcAcc (s : State) (buf : ByteSeq) : (s.setBuf buf).crcAcc = s.crcAcc := rfl
@[simp] theorem State.setBuf_synBuf (s : State) (buf : ByteSeq) : (s.setBuf buf).synBuf = buf := rfl
@[simp] theorem State.setBuf_crcTable (s : State) (buf : ByteSeq) : (s.setBuf buf).crcTable = s.crcTable := rfl
@[simp] theorem State.setBuf_pending (s : State) (buf : ByteSeq) : (s.setBuf buf).pending = s.pending := rfl
@[simp] theorem State.setBuf_log (s : State) (buf : ByteSeq) : (s.setBuf buf).log = s.log := rfl

@[simp] theorem State.setPending_crcAcc (s : State) (r : List Issue) : (s.setPending r).crcAcc = s.crcAcc := rfl
@[simp] theorem State.setPending_synBuf (s : State) (r : List Issue) : (s.setPending r).synBuf = s.synBuf := rfl
@[simp] theorem State.setPending_crcTable (s : State) (r : List Issue) :
    (s.setPending r).crcTable = s.crcTable := rfl
@[simp] theorem State.setPending_pending (s : State) (r : List Issue) : (s.setPending r).pending = r := rfl
@[simp] theorem State.setPending_log (s : State) (r : List Issue) : (s.setPending r).log = s.log := rfl

@[simp] theorem State.record_crcAcc (s : State) (es : List Event) (o : OpOutcome) :
    (s.record es o).crcAcc = s.crcAcc := rfl
@[simp] theorem State.record_synBuf (s : State) (es : List Event) (o : OpOutcome) :
    (s.record es o).synBuf = s.synBuf := rfl
@[simp] theorem State.record_crcTable (s : State) (es : List Event) (o : OpOutcome) :
    (s.record es o).crcTable = s.crcTable := rfl
@[simp] theorem State.record_pending (s : State) (es : List Event) (o : OpOutcome) :
    (s.record es o).pending = s.pending := rfl
@[simp] theorem State.record_log (s : State) (es : List Event) (o : OpOutcome) :
    (s.record es o).log = s.log ++ (es.map Observation.event ++ [Observation.outcome o]) := rfl

end Sys2Proof.Machine
end

