-- ==== Sys2Proof/Laws/Machine.lean ====
section
/-! SUPPORT. What a step can do, said once: the synchronizer, each shared operation, and the shape of every
instruction. -/
namespace Sys2Proof.Machine

theorem synTake_hunt (t : CrcTable) (b : Byte) :
    synTake t [] b = if b = Config.delim then ([b], []) else ([], []) := rfl

theorem synTake_len (t : CrcTable) (d b : Byte) : synTake t [d] b = ([d, b], []) := rfl

theorem synTake_body (t : CrcTable) (buf : ByteSeq) (n b : Byte) (h : buf[1]? = some n) :
    synTake t buf b = if (buf ++ [b]).length = n.toNat + 7 then
        ([], [.deliver (buf ++ [b]) (validate t (buf ++ [b]))])
      else (buf ++ [b], []) := by
  match buf, h with
  | d :: m :: rest, h =>
    obtain rfl : m = n := by simpa using h
    rfl

/-- One arriving byte keeps the invariants of `SYN.BUF`, and the event it completes is one the block may emit. -/
theorem synTake_inv (t : CrcTable) (buf : ByteSeq) (b : Byte) (h : synInv buf = true) :
    synInv (synTake t buf b).1 = true ∧ ∀ e ∈ (synTake t buf b).2, EventOk t e := by
  match buf, h with
  | [], _ =>
    rw [synTake_hunt]
    split <;> simp_all [synInv]
  | [d], h =>
    rw [synTake_len]
    simp_all [synInv]
    simp only [Config.ovhRsp]; omega
  | d :: n :: rest, h =>
    rw [synTake_body t _ n b (by simp)]
    simp only [synInv, Bool.and_eq_true, decide_eq_true_eq] at h
    obtain ⟨rfl, hlt⟩ := h
    split
    · rename_i hlen
      refine ⟨rfl, ?_⟩
      intro e he
      obtain rfl : e = _ := by simpa using he
      exact ⟨by simp, ⟨n, by simp, hlen⟩, rfl⟩
    · rename_i hlen
      refine ⟨?_, by simp⟩
      simp only [synInv, List.cons_append, Bool.and_eq_true, decide_eq_true_eq, true_and]
      simp only [List.length_append, List.length_cons, List.length_nil] at hlen ⊢
      simp only [Config.ovhRsp] at hlt ⊢
      omega

@[simp] theorem State.rxByte_crcAcc (s : State) (b : Byte) : (s.rxByte b).crcAcc = s.crcAcc := rfl
@[simp] theorem State.rxByte_crcTable (s : State) (b : Byte) : (s.rxByte b).crcTable = s.crcTable := rfl
@[simp] theorem State.rxByte_pending (s : State) (b : Byte) : (s.rxByte b).pending = s.pending := rfl
theorem State.rxByte_synBuf (s : State) (b : Byte) :
    (s.rxByte b).synBuf = (synTake s.crcTable s.synBuf b).1 := rfl
theorem State.rxByte_log (s : State) (b : Byte) :
    (s.rxByte b).log = s.log ++ ((synTake s.crcTable s.synBuf b).2.map Observation.event ++
      [Observation.outcome (.ok .none)]) := rfl

@[simp] theorem State.rxBytes_nil (s : State) : s.rxBytes [] = s := rfl
@[simp] theorem State.rxBytes_cons (s : State) (b : Byte) (bs : ByteSeq) :
    s.rxBytes (b :: bs) = (s.rxByte b).rxBytes bs := rfl
theorem State.rxBytes_append (s : State) (bs cs : ByteSeq) :
    s.rxBytes (bs ++ cs) = (s.rxBytes bs).rxBytes cs := List.foldl_append

/-- What arriving bytes leave alone, and how they extend the log. -/
theorem State.rxBytes_frame (s : State) (bs : ByteSeq) :
    (s.rxBytes bs).crcAcc = s.crcAcc ∧ (s.rxBytes bs).crcTable = s.crcTable ∧
    (s.rxBytes bs).pending = s.pending ∧ ∃ more, (s.rxBytes bs).log = s.log ++ more := by
  induction bs generalizing s with
  | nil => exact ⟨rfl, rfl, rfl, [], by simp⟩
  | cons b bs ih =>
    obtain ⟨h1, h2, h3, more, h4⟩ := ih (s.rxByte b)
    refine ⟨h1, h2, h3, ?_⟩
    rw [rxBytes_cons, h4, rxByte_log, List.append_assoc]
    exact ⟨_, rfl⟩

/-- `VAL` never answers with anything but a result: how it ends. -/
theorem execVal_eq (f : ByteSeq) (s : State) :
    execVal f s = .next (s.record [] (match validate s.crcTable f with
      | .ok v => .ok (.validated v)
      | .error e => .raise e)) := by
  unfold execVal
  cases validate s.crcTable f <;> rfl

theorem sendCommand_eq (op : Byte) (p : ByteSeq) (s : State) (h : p.length ≤ 248) :
    sendCommand op p s =
      .next (s.record [.tx (commandFrame s.crcTable op p)] (.ok (.bytes (commandFrame s.crcTable op p)))) := by
  simp only [sendCommand, buildCommandFrame_eq _ _ _ h, succeed]

theorem sendCommand_refused (op : Byte) (p : ByteSeq) (s : State) (h : 248 < p.length) :
    sendCommand op p s = .next (s.record [] (.refuse .payloadTooLong)) := by
  simp only [sendCommand, buildCommandFrame_eq_none _ _ _ h, refuse]

theorem execCrcSum_eq (bytes : ByteSeq) (off n : Nat) (s : State) :
    execCrcSum bytes off n s = .next (s.record [] (match checksum s.crcTable bytes off n with
      | some c => .ok (.word c)
      | none => .refuse .rangeOutOfBounds)) := by
  unfold execCrcSum
  cases checksum s.crcTable bytes off n <;> rfl

/-- How every instruction but a response frame ends: a next state in which `CRC.ACC` and `SYN.BUF` have some value,
and the events and the one outcome are recorded. -/
theorem exec_shape (i : Instr) (s : State) (h : ∀ op st p ck, i ≠ .frameRsp op st p ck) :
    ∃ acc buf es o, exec i s = .next (((s.setAcc acc).setBuf buf).record es o) ∧
      (i.writesAcc = false → acc = s.crcAcc) ∧ (i.writesBuf = false → buf = s.synBuf) ∧
      (∀ r, o = .refuse r → acc = s.crcAcc ∧ buf = s.synBuf ∧ es = []) := by
  cases i with
  | crcInit => exact ⟨_, s.synBuf, _, _, rfl, by simp [Instr.writesAcc], fun _ => rfl, by simp⟩
  | crcNib n => exact ⟨_, s.synBuf, _, _, rfl, by simp [Instr.writesAcc], fun _ => rfl, by simp⟩
  | crcByte b => exact ⟨_, s.synBuf, _, _, rfl, by simp [Instr.writesAcc], fun _ => rfl, by simp⟩
  | crcRead => exact ⟨s.crcAcc, s.synBuf, _, _, rfl, fun _ => rfl, fun _ => rfl, by simp⟩
  | crcSum bytes off n =>
    exact ⟨s.crcAcc, s.synBuf, _, _, execCrcSum_eq bytes off n s, fun _ => rfl, fun _ => rfl, by simp⟩
  | enc op p =>
    rcases Nat.lt_or_ge 248 (p.getD []).length with hp | hp
    · exact ⟨s.crcAcc, s.synBuf, _, _, sendCommand_refused op _ s hp, fun _ => rfl, fun _ => rfl, by simp⟩
    · exact ⟨s.crcAcc, s.synBuf, _, _, sendCommand_eq op _ s hp, fun _ => rfl, fun _ => rfl, by simp⟩
  | val f => exact ⟨s.crcAcc, s.synBuf, _, _, execVal_eq f s, fun _ => rfl, fun _ => rfl, by simp⟩
  | rxByte b => exact ⟨s.crcAcc, _, _, _, rfl, fun _ => rfl, by simp [Instr.writesBuf], by simp⟩
  | synClear => exact ⟨s.crcAcc, _, _, _, rfl, fun _ => rfl, by simp [Instr.writesBuf], by simp⟩
  | reset => exact ⟨_, _, _, _, rfl, by simp [Instr.writesAcc], by simp [Instr.writesBuf], by simp⟩
  | reserved9 => exact ⟨s.crcAcc, s.synBuf, _, _, rfl, fun _ => rfl, fun _ => rfl, by simp⟩
  | reservedA => exact ⟨s.crcAcc, s.synBuf, _, _, rfl, fun _ => rfl, fun _ => rfl, by simp⟩
  | reservedB => exact ⟨s.crcAcc, s.synBuf, _, _, rfl, fun _ => rfl, fun _ => rfl, by simp⟩
  | reservedC => exact ⟨s.crcAcc, s.synBuf, _, _, rfl, fun _ => rfl, fun _ => rfl, by simp⟩
  | reservedD => exact ⟨s.crcAcc, s.synBuf, _, _, rfl, fun _ => rfl, fun _ => rfl, by simp⟩
  | reservedE => exact ⟨s.crcAcc, s.synBuf, _, _, rfl, fun _ => rfl, fun _ => rfl, by simp⟩
  | frameCmd op p =>
    rcases Nat.lt_or_ge 248 p.length with hp | hp
    · exact ⟨s.crcAcc, s.synBuf, _, _, sendCommand_refused op _ s hp, fun _ => rfl, fun _ => rfl, by simp⟩
    · exact ⟨s.crcAcc, s.synBuf, _, _, sendCommand_eq op _ s hp, fun _ => rfl, fun _ => rfl, by simp⟩
  | frameRsp op st p ck => exact absurd rfl (h op st p ck)

end Sys2Proof.Machine
end

