-- ==== Sys2Proof/Laws/PerInstr.lean ====
section
/-! SUPPORT. The family `Layout`: what each instruction's issue looks like, constructor by constructor, from the tables
of 30_encoding.md (select codes and operand classes of section 4, wire formats of section 1). -/
namespace Sys2Proof.Laws.Layout

/-- The select code of an instruction, where it has one (30_encoding.md R58, R59). -/
def selectCode : Instr → Option Nat
  | .crcInit => some 0x0
  | .crcNib _ => some 0x1
  | .crcByte _ => some 0x2
  | .crcRead => some 0x3
  | .crcSum _ _ _ => some 0x4
  | .enc _ _ => some 0x5
  | .val _ => some 0x6
  | .rxByte _ => some 0x7
  | .synClear => some 0x8
  | .reserved9 => some 0x9
  | .reservedA => some 0xA
  | .reservedB => some 0xB
  | .reservedC => some 0xC
  | .reservedD => some 0xD
  | .reservedE => some 0xE
  | .reset => some 0xF
  | .frameCmd _ _ => none
  | .frameRsp _ _ _ _ => none

/-- An operation is issued under its select code; a wire frame opens with the delimiter, travels in its direction and
is as long as its format says. -/
def Statement (i : Instr) : Prop :=
  ∀ t : CrcTable,
    match encode t i with
    | .op code _ => selectCode i = some code.toNat
    | .wire .toDevice bytes => selectCode i = none ∧ bytes[0]? = some Config.delim ∧
        ∃ op p, i = .frameCmd op p ∧ bytes.length = p.length + Config.ovhCmd
    | .wire .toHost bytes => selectCode i = none ∧ bytes[0]? = some Config.delim ∧
        ∃ op st p ck, i = .frameRsp op st p ck ∧ bytes.length = p.length + Config.ovhRsp

theorem crcInit : Statement .crcInit := fun _ => rfl
theorem crcNib (n : Nibble) : Statement (.crcNib n) := fun _ => rfl
theorem crcByte (b : Byte) : Statement (.crcByte b) := fun _ => rfl
theorem crcRead : Statement .crcRead := fun _ => rfl
theorem crcSum (bytes : ByteSeq) (off n : Nat) : Statement (.crcSum bytes off n) := fun _ => rfl
theorem enc (opcode : Byte) (payload : Option ByteSeq) : Statement (.enc opcode payload) := fun _ => rfl
theorem val (frame : ByteSeq) : Statement (.val frame) := fun _ => rfl
theorem rxByte (b : Byte) : Statement (.rxByte b) := fun _ => rfl
theorem synClear : Statement .synClear := fun _ => rfl
theorem reset : Statement .reset := fun _ => rfl
theorem reserved9 : Statement .reserved9 := fun _ => rfl
theorem reservedA : Statement .reservedA := fun _ => rfl
theorem reservedB : Statement .reservedB := fun _ => rfl
theorem reservedC : Statement .reservedC := fun _ => rfl
theorem reservedD : Statement .reservedD := fun _ => rfl
theorem reservedE : Statement .reservedE := fun _ => rfl
theorem frameCmd (opcode : Byte) (payload : ByteSeq) : Statement (.frameCmd opcode payload) := fun t =>
  ⟨rfl, rfl, opcode, payload, rfl, Machine.commandFrame_length t opcode payload⟩
theorem frameRsp (opcode : Byte) (status : Word) (payload : ByteSeq) (checksum : Word) :
    Statement (.frameRsp opcode status payload checksum) := fun _ =>
  ⟨rfl, rfl, opcode, status, payload, checksum, rfl,
    Machine.responseFrame_length opcode status payload checksum⟩

end Sys2Proof.Laws.Layout
end

