-- ==== Sys2Proof/Tests/Slice0.lean ====
section
/-! SUPPORT. Tests: words written out from the spec's encoding, ill-formed terms, one or two single steps for each
instruction (expected values from 95_test_vectors.md, which rest on the default table), and a witness for the
hypotheses of every statement that has some. -/
namespace Sys2Proof.Tests
open Sys2Proof.Machine

/-- A state after reset with the registers given. -/
def mk (acc : Word) (buf : ByteSeq) : State := { State.reset with crcAcc := acc, synBuf := buf }

/-- The next state, if there is one. -/
def nextOf (o : Host.Outcome State Fault Refusal) : Option State :=
  match o with
  | .next t => some t
  | .fault _ => none
  | .refused _ => none

/-- `CRC.ACC` of the next state. -/
def accOf (o : Host.Outcome State Fault Refusal) : Option Word := (nextOf o).map State.crcAcc

/-- `SYN.BUF` of the next state. -/
def bufOf (o : Host.Outcome State Fault Refusal) : Option ByteSeq := (nextOf o).map State.synBuf

/-- The log of the next state. -/
def logOf (o : Host.Outcome State Fault Refusal) : Option (List Observation) := (nextOf o).map State.log

/-- The default table. -/
abbrev dt : CrcTable := Config.defaultCrcTable

/-- `F` of 95_test_vectors.md. -/
def frameF : ByteSeq := [0xFF, 0x00, 0x97, 0x00, 0x00, 0x77, 0x9E]

/-- `VAL(F)` (95_test_vectors.md section 4). -/
def validF : ValidatedFrame :=
  { frame := frameF, n := 0, opcode := 0x97, status := 0x0000, payload := [], region := [0x00, 0x00] }

/-! Decoding: each row's word, written out from 30_encoding.md R58, R59, R50, R51. -/

theorem test_decode_crcInit : decode dt (.op 0b0000 .z) = .ok .crcInit := by decide
theorem test_decode_crcNib : decode dt (.op 0b0001 (.n4 0xD)) = .ok (.crcNib 0xD) := by decide
theorem test_decode_crcByte : decode dt (.op 0b0010 (.b8 0x97)) = .ok (.crcByte 0x97) := by decide
theorem test_decode_crcRead : decode dt (.op 0b0011 .z) = .ok .crcRead := by decide
theorem test_decode_crcSum : decode dt (.op 0b0100 (.rng frameF 1 2)) = .ok (.crcSum frameF 1 2) := by decide
theorem test_decode_enc : decode dt (.op 0b0101 (.opp 0x62 none)) = .ok (.enc 0x62 none) := by decide
theorem test_decode_val : decode dt (.op 0b0110 (.frm frameF)) = .ok (.val frameF) := by decide
theorem test_decode_rxByte : decode dt (.op 0b0111 (.b8 0xFF)) = .ok (.rxByte 0xFF) := by decide
theorem test_decode_synClear : decode dt (.op 0b1000 .z) = .ok .synClear := by decide
theorem test_decode_reset : decode dt (.op 0b1111 .z) = .ok .reset := by decide
theorem test_decode_reserved9 : decode dt (.op 0b1001 .z) = .ok .reserved9 := by decide
theorem test_decode_reservedA : decode dt (.op 0b1010 (.b8 7)) = .ok .reservedA := by decide
theorem test_decode_reservedB : decode dt (.op 0b1011 .z) = .ok .reservedB := by decide
theorem test_decode_reservedC : decode dt (.op 0b1100 .z) = .ok .reservedC := by decide
theorem test_decode_reservedD : decode dt (.op 0b1101 .z) = .ok .reservedD := by decide
theorem test_decode_reservedE : decode dt (.op 0b1110 .z) = .ok .reservedE := by decide
theorem test_decode_frameCmd :
    decode dt (.wire .toDevice [0xFF, 0x02, 0x93, 0x00, 0x05, 0x51, 0x7D]) = .ok (.frameCmd 0x93 [0x00, 0x05]) := by
  decide
theorem test_decode_frameRsp :
    decode dt (.wire .toHost [0xFF, 0x00, 0x22, 0x04, 0x00, 0x84, 0xE0]) = .ok (.frameRsp 0x22 0x0400 [] 0x84E0) := by
  decide
theorem test_decode_wrong_class : decode dt (.op 0b0001 .z) = .error (.operandClass 1) := by decide
theorem test_decode_short_frame : decode dt (.wire .toHost [0xFF, 0x00, 0x22]) = .error .notAResponseFrame := by
  decide
theorem test_decode_response_is_no_command : decode dt (.wire .toDevice frameF) = .error .notACommandFrame := by
  decide
theorem test_tableWord_frame : decodeTableWord 8 0xFF = some (.frameRsp 0 0 [] 0) := by decide
theorem test_tableWord_no_row : decodeTableWord 8 0x1F = none := by decide

/-! Ill-formed terms: one for each check. -/

theorem test_wellFormed_command : (Instr.frameCmd 0 (List.replicate 248 0)).wellFormed = true := by decide +kernel
theorem test_illFormed_command : (Instr.frameCmd 0 (List.replicate 249 0)).wellFormed = false := by decide +kernel
theorem test_wellFormed_response : (Instr.frameRsp 0 0 (List.replicate 255 0) 0).wellFormed = true := by decide +kernel
theorem test_illFormed_response : (Instr.frameRsp 0 0 (List.replicate 256 0) 0).wellFormed = false := by decide +kernel

/-! The CRC unit (95_test_vectors.md section 2). -/

theorem test_crcInit : accOf (exec .crcInit (mk 0x1234 [])) = some 0xFFFF := by decide
theorem test_crcNib : accOf (exec (.crcNib 0x3) (mk 0xFECE [])) = some 0x1D0C := by decide
theorem test_crcNib_index : accOf (exec (.crcNib 0x5) (mk 0x1234 [])) = some 0x3364 := by decide
theorem test_crcByte : accOf (exec (.crcByte 0x00) (mk 0xFFFF [])) = some 0xE1F0 := by decide
theorem test_crcByte_order : accOf (exec (.crcByte 0x97) (mk 0xE1F1 [])) = some 0x1C98 := by decide
theorem test_crcRead : logOf (exec .crcRead (mk 0x1D0C [])) = some [.outcome (.ok (.word 0x1D0C))] := by decide
theorem test_crcSum :
    logOf (exec (.crcSum [0xFF, 0x00, 0x03, 0x1D, 0x0C] 0 3) (mk 0x1234 [])) =
      some [.outcome (.ok (.word 0xD26F))] := by decide
theorem test_crcSum_out_of_bounds :
    logOf (exec (.crcSum [0xFF, 0x00, 0x03, 0x1D, 0x0C] 6 0) (mk 0x1234 [])) =
      some [.outcome (.refuse .rangeOutOfBounds)] := by decide
theorem test_checksum_check_string :
    checksum dt [0x31, 0x32, 0x33, 0x34, 0x35, 0x36, 0x37, 0x38, 0x39] 0 9 = some 0xA69D := by decide

/-! The encoder (95_test_vectors.md section 3). -/

theorem test_enc_absent :
    logOf (exec (.enc 0x03 none) (mk 0xFFFF [])) = some [.event (.tx [0xFF, 0x00, 0x03, 0x1D, 0x0C]),
      .outcome (.ok (.bytes [0xFF, 0x00, 0x03, 0x1D, 0x0C]))] := by decide
theorem test_enc_no_escaping :
    logOf (exec (.enc 0x2A (some [0xFF, 0xFF, 0xFF])) (mk 0xFFFF [])) =
      some [.event (.tx [0xFF, 0x03, 0x2A, 0xFF, 0xFF, 0xFF, 0x40, 0x7E]),
        .outcome (.ok (.bytes [0xFF, 0x03, 0x2A, 0xFF, 0xFF, 0xFF, 0x40, 0x7E]))] := by decide
theorem test_frameCmd :
    logOf (exec (.frameCmd 0x97 [0x0D]) (mk 0xFFFF [])) =
      some [.event (.tx [0xFF, 0x01, 0x97, 0x0D, 0x4B, 0xB0]),
        .outcome (.ok (.bytes [0xFF, 0x01, 0x97, 0x0D, 0x4B, 0xB0]))] := by decide

/-! The validator (95_test_vectors.md section 4). -/

theorem test_val_ok : validate dt frameF = .ok validF := by decide
theorem test_val_ok_payload :
    validate dt [0xFF, 0x02, 0x62, 0x00, 0x00, 0x0A, 0x8C, 0x1C, 0xFF] =
      .ok { frame := [0xFF, 0x02, 0x62, 0x00, 0x00, 0x0A, 0x8C, 0x1C, 0xFF], n := 2, opcode := 0x62,
            status := 0x0000, payload := [0x0A, 0x8C], region := [0x00, 0x00, 0x0A, 0x8C] } := by decide
theorem test_val_only_delimiter :
    logOf (exec (.val [0xFF]) (mk 0 [])) = some [.outcome (.raise .lengthMismatch)] := by decide
theorem test_val_little_endian_checksum :
    logOf (exec (.val [0xFF, 0x00, 0x97, 0x00, 0x00, 0x9E, 0x77]) (mk 0 [])) =
      some [.outcome (.raise .crcMismatch)] := by decide

/-! The synchronizer (95_test_vectors.md section 5). -/

theorem test_rxByte_completes :
    nextOf (exec (.rxByte 0x9E) (mk 0xFFFF [0xFF, 0x00, 0x97, 0x00, 0x00, 0x77])) =
      some { mk 0xFFFF [] with log := [.event (.deliver frameF (.ok validF)), .outcome (.ok .none)] } := by decide
theorem test_rxByte_data :
    bufOf (exec (.rxByte 0xFF) (mk 0xFFFF [0xFF, 0x00, 0x97, 0x00, 0x00])) =
      some [0xFF, 0x00, 0x97, 0x00, 0x00, 0xFF] := by decide
theorem test_synClear : bufOf (exec .synClear (mk 0x1D0C [0xFF, 0x05, 0x22])) = some [] := by decide
theorem test_synClear_acc : accOf (exec .synClear (mk 0x1D0C [0xFF, 0x05, 0x22])) = some 0x1D0C := by decide
theorem test_frameRsp :
    logOf (exec (.frameRsp 0x22 0x0400 [] 0x84E0) (mk 0 [])) =
      some (List.replicate 6 (.outcome (.ok .none)) ++
        [.event (.deliver [0xFF, 0x00, 0x22, 0x04, 0x00, 0x84, 0xE0]
          (.ok { frame := [0xFF, 0x00, 0x22, 0x04, 0x00, 0x84, 0xE0], n := 0, opcode := 0x22, status := 0x0400,
                 payload := [], region := [0x04, 0x00] })), .outcome (.ok .none)]) := by decide
theorem test_frameRsp_swallowed :
    bufOf (exec (.frameRsp 0x97 0x0000 [] 0x779E) (mk 0 [0xFF])) =
      some [0xFF, 0xFF, 0x00, 0x97, 0x00, 0x00, 0x77, 0x9E] := by decide
theorem test_synNeed : synNeed [0xFF, 0xFF, 0x00, 0x97, 0x00, 0x00, 0x77, 0x9E] = some 254 := by decide

/-! Reset and the reserved codes. -/

theorem test_reset :
    nextOf (exec .reset (mk 0x1D0C [0xFF, 0x02, 0x62])) =
      some { State.reset with log := [.outcome (.ok .none)] } := by decide
theorem test_reserved9 : logOf (exec .reserved9 (mk 0 [])) = some [.outcome (.refuse .reservedOperation)] := by decide
theorem test_reservedA : logOf (exec .reservedA (mk 0 [])) = some [.outcome (.refuse .reservedOperation)] := by decide
theorem test_reservedB : logOf (exec .reservedB (mk 0 [])) = some [.outcome (.refuse .reservedOperation)] := by decide
theorem test_reservedC : logOf (exec .reservedC (mk 0 [])) = some [.outcome (.refuse .reservedOperation)] := by decide
theorem test_reservedD : logOf (exec .reservedD (mk 0 [])) = some [.outcome (.refuse .reservedOperation)] := by decide
theorem test_reservedE : logOf (exec .reservedE (mk 0 [])) = some [.outcome (.refuse .reservedOperation)] := by decide

/-! The step. -/

theorem test_step_idle : nextOf (step State.reset) = some State.reset := by decide
theorem test_step_table_word :
    nextOf (step (State.reset.withFetchWord 8 0x3)) =
      some { State.reset with log := [.outcome (.ok (.word 0xFFFF))] } := by decide
theorem test_speaks : State.speaks { State.reset with log := [.outcome (.refuse .payloadTooLong)] } = false := by
  decide

/-! The surrounding software (95_test_vectors.md section 1, properties 6 and 7). -/

/-- Sample values, the candidates of 93_implementation_defined.md G2 and G3, used as sample data only. -/
def sample : HostParams :=
  { opVersion := 0x03, opSetRegion := 0x97, opSetReadPower := 0x92, opGetReadPower := 0x62, opSetWritePower := 0x94,
    opGetWritePower := 0x64, opSetTagProtocol := 0x93, opSetAntennaPort := 0x91, opMulti := 0x2F, opTagReport := 0x22,
    stKeepalive := 0x0400, lenZeroTagMarker := 4, startPayload := [0], stopPayload := [0, 0, 2],
    getReadPowerPayload := [], getWritePowerPayload := [],
    readPowerOffset := 1, writePowerOffset := 1, solePort := 1, tie := .even, epcBase := 31, epcTrim := 4 }

theorem test_power_command :
    HostCall.command sample (.unary (.setReadPower 30)) = .enc 0x92 (some [0x0A, 0x8C]) := by decide +kernel
theorem test_keepAlive_dropped :
    listen sample (validate dt [0xFF, 0x00, 0x22, 0x04, 0x00, 0x84, 0xE0]) = .dropped := by decide

/-! Witnesses: the hypotheses of each statement can be met. -/

theorem witness_ReservedCodesAreRefused :
    ∃ (s : State) (code : BitVec 4) (operands : Operands) (rest : List Issue),
      0x9#4 ≤ code ∧ code ≤ 0xE#4 ∧ s.pending = .op code operands :: rest :=
  ⟨State.reset.setPending [.op 0xE (.b8 3)], 0xE, .b8 3, [], by decide⟩
theorem witness_ReservedCodesAreRefused_low :
    ∃ (s : State) (operands : Operands), s.pending = [.op 0x9 operands] :=
  ⟨State.reset.setPending [.op 0x9 .z], .z, rfl⟩
theorem witness_EncodeInvertsDecode :
    decode dt (.wire .toHost frameF) = .ok (.frameRsp 0x97 0 [] 0x779E) ∧
      (Instr.frameRsp 0x97 0 [] 0x779E).isReserved = false := by decide
theorem witness_WrongOperandClassIsRejected :
    Operands.n4 1 ≠ .z ∧ (∀ n, Operands.z ≠ .n4 n) ∧ (∀ b, Operands.z ≠ .b8 b) ∧
    (∀ bytes off n, Operands.z ≠ .rng bytes off n) ∧ (∀ opcode payload, Operands.z ≠ .opp opcode payload) ∧
    (∀ frame, Operands.z ≠ .frm frame) ∧ decode dt (.op 0xF (.n4 1)) = .error (.operandClass 0xF) := by
  refine ⟨by decide, ?_, ?_, ?_, ?_, ?_, by decide⟩ <;> intros <;> simp
theorem witness_Step_refused :
    ∃ s : State, ∃ j rest e, s.pending = j :: rest ∧ decode s.crcTable j = .error e :=
  ⟨State.reset.setPending [.op 0x2 .z], _, _, _, rfl, rfl⟩
theorem witness_Step_decoded :
    ∃ s : State, ∃ j rest i, s.pending = j :: rest ∧ decode s.crcTable j = .ok i :=
  ⟨State.reset.setPending [.op 0x2 (.b8 1)], _, _, _, rfl, rfl⟩
theorem witness_EveryOperationHasOneOutcome :
    (∀ op p, Instr.val [] ≠ .frameCmd op p) ∧ ∀ op st p ck, Instr.val [] ≠ .frameRsp op st p ck := by
  constructor <;> intros <;> simp
theorem witness_CrcSum_inside : 3 + 4 ≤ frameF.length := by decide
theorem witness_CrcSum_outside : frameF.length < 3 + 5 := by decide
theorem witness_StreamingAgreesWithChecksum :
    1 + 2 ≤ frameF.length ∧
    (∀ i ∈ [Instr.crcByte 0x00, .rxByte 0xFF, .crcByte 0x97], i ≠ .crcInit ∧ i ≠ .reset ∧ ∀ m, i ≠ .crcNib m) ∧
    [Instr.crcByte 0x00, .rxByte 0xFF, .crcByte 0x97].flatMap Instr.crcByteOperand = slice frameF 1 (1 + 2) := by
  refine ⟨by decide, ?_, by decide⟩
  intro i hi
  simp only [List.mem_cons, List.not_mem_nil, or_false] at hi
  rcases hi with rfl | rfl | rfl <;> simp
theorem witness_ChecksumIsLinear : ([0x12, 0x34] : ByteSeq).length = ([0xFF, 0x00] : ByteSeq).length := by decide
theorem witness_BurstsUpToSixteenBitsAreDetected :
    ∃ (a b : ByteSeq) (k : Nat), a.length = b.length ∧ a ≠ b ∧
      (∀ j, messageBit a j ≠ messageBit b j → k ≤ j ∧ j < k + 16) := by
  refine ⟨[0x00, 0x00], [0x00, 0x01], 0, rfl, by decide, ?_⟩
  intro j h
  refine ⟨Nat.zero_le _, ?_⟩
  by_contra hj
  have h2 : 2 ≤ j / 8 := by omega
  have ha : ([0x00, 0x00] : ByteSeq).getD (j / 8) 0 = 0 := List.getD_eq_default _ _ h2
  have hb : ([0x00, 0x01] : ByteSeq).getD (j / 8) 0 = 0 := List.getD_eq_default _ _ h2
  exact h (by rw [messageBit, messageBit, ha, hb])
theorem witness_EncResult :
    ((some (List.replicate 248 (0 : Byte))).getD []).length ≤ 248 ∧
    248 < ((some (List.replicate 249 (0 : Byte))).getD []).length := by decide +kernel
theorem witness_Enc_sent :
    ∃ (s t : State) (f : ByteSeq), exec (.enc 0x03 none) s = .next t ∧
      .event (.tx f) ∈ t.log.drop s.log.length :=
  ⟨mk 0 [], _, [0xFF, 0x00, 0x03, 0x1D, 0x0C], rfl, by decide⟩
theorem witness_EncIsInjective :
    ∃ s t : State, (Option.getD (none : Option ByteSeq) []).length ≤ 248 ∧
      ((some ([] : ByteSeq)).getD []).length ≤ 248 ∧
      exec (.enc 0x03 none) s = .next t ∧ exec (.enc 0x03 (some [])) s = .next t :=
  ⟨mk 0 [], _, by decide, by decide, rfl, rfl⟩
theorem witness_ValBadDelimiter : ([] : ByteSeq)[0]? ≠ some 0xFF#8 := by decide
theorem witness_ValLengthMismatch :
    ([0xFF, 0x00] : ByteSeq)[0]? = some 0xFF#8 ∧
    ∀ n : Byte, ([0xFF, 0x00] : ByteSeq)[1]? = some n → ([0xFF, 0x00] : ByteSeq).length ≠ n.toNat + 7 := by
  refine ⟨rfl, ?_⟩
  rintro n ⟨⟩
  decide
theorem witness_ValCrcMismatch :
    ∃ (f : ByteSeq) (n high low : Byte) (s : State), f[0]? = some 0xFF#8 ∧ f[1]? = some n ∧
      f.length = n.toNat + 7 ∧ f[n.toNat + 5]? = some high ∧ f[n.toNat + 6]? = some low ∧
      (crcFold s.crcTable 0xFFFF#16 ((f.drop 1).take (n.toNat + 4))).toNat ≠ high.toNat * 256 + low.toNat :=
  ⟨[0xFF, 0x00, 0x96, 0x00, 0x00, 0x77, 0x9E], 0, 0x77, 0x9E, State.reset, by decide⟩
theorem witness_ValExposesTheFields :
    ∃ (f : ByteSeq) (n opcode statusHigh statusLow high low : Byte) (s : State),
      f[0]? = some 0xFF#8 ∧ f[1]? = some n ∧ f.length = n.toNat + 7 ∧ f[2]? = some opcode ∧
      f[3]? = some statusHigh ∧ f[4]? = some statusLow ∧ f[n.toNat + 5]? = some high ∧ f[n.toNat + 6]? = some low ∧
      (crcFold s.crcTable 0xFFFF#16 ((f.drop 1).take (n.toNat + 4))).toNat = high.toNat * 256 + low.toNat :=
  ⟨[0xFF, 0x00, 0x22, 0x04, 0x00, 0x84, 0xE0], 0, 0x22, 0x04, 0x00, 0x84, 0xE0, State.reset, by decide⟩
theorem witness_ValOkOnlyWithinLengths :
    ∃ (f : ByteSeq) (s t : State) (v : ValidatedFrame), exec (.val f) s = .next t ∧
      t.log = s.log ++ [.outcome (.ok (.validated v))] :=
  ⟨frameF, State.reset, _, validF, rfl, by decide⟩
theorem witness_ResponseRoundTrip : (List.replicate 255 (0xAA : Byte)).length ≤ 255 := by decide +kernel
theorem witness_FrameRspIsDelivered :
    (mk 0 []).synBuf = [] ∧ (List.replicate 255 (0xAA : Byte)).length ≤ 255 := ⟨rfl, by decide +kernel⟩
theorem witness_FrameCmdIsSent :
    (List.replicate 248 (0 : Byte)).length ≤ 248 ∧ 248 < (List.replicate 249 (0 : Byte)).length := by decide +kernel
theorem witness_DecodeInvertsEncode :
    (Instr.frameCmd 0x10 (List.replicate 248 0)).wellFormed = true := by decide +kernel
theorem witness_DecodedIsWellFormed : decode dt (.op 0x3 .z) = .ok .crcRead := rfl
theorem witness_OneChangedByteIsDetected :
    validate State.reset.crcTable frameF = .ok validF ∧
    (0 < frameF.length ∧ frameF[0]? ≠ some 0xFE#8) ∧ (1 < frameF.length ∧ frameF[1]? ≠ some 0x01#8) ∧
    (2 < frameF.length ∧ frameF[2]? ≠ some 0x96#8) ∧ State.reset.crcTable = dt ∧
    (6 < frameF.length ∧ frameF[6]? ≠ some 0x9F#8) ∧ validF.n.toNat + 5 ≤ 6 := by decide
theorem witness_ChangedLengthIsDetected :
    validate State.reset.crcTable frameF = .ok validF ∧ ([0x00] : ByteSeq) ≠ [] ∧ 0 < 6 ∧ 6 < frameF.length := by
  decide
theorem witness_RxByteInHunt : State.reset.synBuf = [] := rfl
theorem witness_RxByteInLen : (mk 0 [0xFF]).synBuf = [0xFF#8] := rfl
theorem witness_RxByteInBody_completes :
    (mk 0 (frameF.take 6)).synBuf[1]? = some 0x00#8 ∧
      (mk 0 (frameF.take 6)).synBuf.length + 1 = (0x00#8).toNat + 7 := by decide
theorem witness_RxByteInBody_collects :
    (mk 0 (frameF.take 2)).synBuf[1]? = some 0x00#8 ∧
      (mk 0 (frameF.take 2)).synBuf.length + 1 ≠ (0x00#8).toNat + 7 := by decide
theorem witness_DeliveredCandidatesAreShaped :
    ∃ (b : Byte) (s t : State) (f : ByteSeq) (r : ValResult), synInv s.synBuf = true ∧
      exec (.rxByte b) s = .next t ∧ .event (.deliver f r) ∈ t.log.drop s.log.length :=
  ⟨0x9E, mk 0 (frameF.take 6), _, frameF, .ok validF, by decide, rfl, by decide⟩
theorem witness_CleanStreamIsDelivered :
    State.reset.synBuf = [] ∧
    (∀ p ∈ [(([0x00, 0x12] : ByteSeq), frameF), (([] : ByteSeq), frameF)],
      0xFF#8 ∉ p.1 ∧ p.2[0]? = some 0xFF#8 ∧ ∃ n : Byte, p.2[1]? = some n ∧ p.2.length = n.toNat + 7) ∧
    0xFF#8 ∉ ([0x55] : ByteSeq) := by
  refine ⟨rfl, ?_, by decide⟩
  intro p hp
  simp only [List.mem_cons, List.not_mem_nil, or_false] at hp
  rcases hp with rfl | rfl
  · exact ⟨by decide, rfl, 0, rfl, rfl⟩
  · exact ⟨by decide, rfl, 0, rfl, rfl⟩
theorem witness_StrayDelimiterSwallowsWhatFollows :
    (mk 0 [0xFF]).synBuf = [0xFF#8] ∧ (List.replicate 259 (0 : Byte)).length < 260 := ⟨rfl, by decide +kernel⟩
theorem witness_StepKeepsTheInvariant : ∃ s t : State, s.Inv ∧ core.step s = .next t :=
  ⟨mk 0 (frameF.take 6), _, ⟨by decide, by simp [mk, State.reset, eventsOf]⟩, rfl⟩
theorem witness_SynBufIsBounded : ∃ s : State, s.Inv ∧ synNeed s.synBuf = some 260 :=
  ⟨mk 0 [0xFF, 0xFF], ⟨by decide, by simp [mk, State.reset, eventsOf]⟩, by decide⟩
theorem witness_OnlyNamedInstructionsWrite :
    Instr.crcRead.writesAcc = false ∧ Instr.crcRead.writesBuf = false ∧
      exec .crcRead State.reset = .next { State.reset with log := [.outcome (.ok (.word 0xFFFF))] } :=
  ⟨rfl, rfl, rfl⟩
theorem witness_TableAndPastAreKept : step State.reset = .next State.reset := rfl
theorem witness_UnitsDoNotInterfere :
    ∃ t t' : State, exec (.crcByte 1) (mk 5 []) = .next t ∧ exec (.crcByte 1) (mk 5 [0xFF]) = .next t' ∧
      (mk 5 []).crcTable = (mk 5 [0xFF]).crcTable ∧ (mk 5 []).crcAcc = (mk 5 [0xFF]).crcAcc :=
  ⟨_, _, rfl, rfl, rfl, rfl⟩
theorem witness_RefusalsAreExact :
    refusedFor (.crcSum [] 0 1) = some .rangeOutOfBounds ∧ refusedFor (.crcSum [] 0 0) = none ∧
    refusedFor (.enc 0 (some (List.replicate 249 0))) = some .payloadTooLong ∧
    refusedFor (.enc 0 (some (List.replicate 248 0))) = none ∧
    refusedFor .reservedE = some .reservedOperation := by decide +kernel
theorem witness_OnlyTagReportsReachTheCaller : sample.wellFormed = true := by decide
theorem witness_PowerIsClampedMagnitude : abs ((27 : ℚ) * 100) ≤ 2700 ∧ 2700 ≤ abs ((27 : ℚ) * 100) := by
  norm_num [abs]
/-- A tag report whose EPC bit count is 0x80, its EPC the twelve bytes from 31 on, the two checksum bytes after it. -/
def tagReport : ByteSeq :=
  List.replicate 12 0 ++ [0x9C] ++ List.replicate 15 0 ++ [0x80, 0, 0] ++ List.replicate 12 0xE2 ++ [0xAB, 0xCD]

theorem test_decodeTag : decodeTag sample tagReport = some { epc := List.replicate 12 0xE2, rssi := 0x9C } := by decide
theorem test_decodeTag_one_byte_short : decodeTag sample (tagReport.take 44) = none := by decide
theorem test_decodeReply_power :
    UnaryCall.getReadPower.decodeReply sample [0x00, 0x0A, 0x8C] = some (.power 27) := by decide +kernel

theorem witness_TagDecoderReadsItsOffsets :
    tagReport[12]? = some 0x9C#8 ∧ tagReport[24]? = some 0x00#8 ∧ tagReport[25]? = some 0x00#8 ∧
      tagReport[27]? = some 0x00#8 ∧ tagReport[28]? = some 0x80#8 ∧ 4 ≤ (0 * 256 + 0x80 + 7) / 8 ∧
      31 + (0 * 256 + 0 + 7) / 8 + ((0 * 256 + 0x80 + 7) / 8 - 4) + 2 ≤ tagReport.length ∧
      sample.epcBase = 31 ∧ sample.epcTrim = 4 := by decide
theorem witness_TagDecoderReadsItsOffsets_short :
    (tagReport.take 44)[12]? = some 0x9C#8 ∧ (tagReport.take 44)[24]? = some 0x00#8 ∧
      (tagReport.take 44)[25]? = some 0x00#8 ∧ (tagReport.take 44)[27]? = some 0x00#8 ∧
      (tagReport.take 44)[28]? = some 0x80#8 ∧
      (tagReport.take 44).length < 31 + (0 * 256 + 0 + 7) / 8 + ((0 * 256 + 0x80 + 7) / 8 - 4) + 2 := by decide
theorem witness_HostState_inv : HostState.initial.Inv := by
  simp [HostState.Inv, HostState.initial]
theorem witness_ListenerFollowsTheMode_call :
    ∃ h' i, hostCall sample HostState.initial.onReady .startReading = .ok (h', i) := ⟨_, _, rfl⟩
theorem witness_HostKeepsItsPreconditions_streaming :
    ∃ h : HostState, h.ready = true ∧ h.outstanding = none ∧ h.mode = .streaming ∧
      ∃ h' i, hostCall sample h (.unary .stopReading) = .ok (h', i) :=
  ⟨{ HostState.initial with ready := true, mode := .streaming, listener := true }, rfl, rfl, rfl, _, _, rfl⟩
theorem witness_ListenerFollowsTheMode_stop :
    ({ HostState.initial with outstanding := some .stopReading } : HostState).outstanding = some .stopReading := rfl
theorem witness_NextFrameAnswersTheCommand :
    ({ HostState.initial with outstanding := some .getVersion } : HostState).outstanding = some .getVersion ∧
      UnaryCall.getVersion ≠ .stopReading ∧
      ({ HostState.initial with outstanding := some .getVersion } : HostState).listener = false ∧
      ([0x00, 0x0A, 0x8C] : ByteSeq)[sample.readPowerOffset]? = some 0x0A#8 ∧
      ([0x00, 0x0A, 0x8C] : ByteSeq)[sample.writePowerOffset + 1]? = some 0x8C#8 := by decide

end Sys2Proof.Tests
end

section
/-! PROOFS. Each operation's one outcome (00_scope.md R7). The three ways in which an operation can end are settled
first, then the operations that choose between two of them, then the dispatch. -/
namespace Sys2Proof.Machine

/-- What R7 asks of the answer `r` of instruction `i` in state `s`: a next state whose log has grown by events and then
one outcome, a raise only where `i` is `VAL`. -/
def EndsInOneOutcome (i : Instr) (s : State) (r : Host.Outcome State Fault Refusal) : Prop :=
  ∃ (t : State) (es : List Event) (o : OpOutcome), r = .next t ∧
    t.log = s.log ++ (es.map Observation.event ++ [Observation.outcome o]) ∧
    (∀ e, o = .raise e → ∃ f, i = .val f)

/-- `u` is the state after the operation's own writes, which leave the log alone. -/
theorem succeed_endsInOneOutcome {i : Instr} {s u : State} (hlog : u.log = s.log) (es : List Event) (v : Value) :
    EndsInOneOutcome i s (succeed u es v) :=
  ⟨_, es, .ok v, rfl, by rw [State.record_log, hlog], by simp⟩

theorem refuse_endsInOneOutcome {i : Instr} (s : State) (r : RefuseReason) :
    EndsInOneOutcome i s (refuse s r) :=
  ⟨_, [], .refuse r, rfl, State.record_log .., by simp⟩

theorem raiseError_endsInOneOutcome (f : ByteSeq) (s : State) (e : FrameError) :
    EndsInOneOutcome (.val f) s (raiseError s e) :=
  ⟨_, [], .raise e, rfl, State.record_log .., fun _ _ => ⟨f, rfl⟩⟩

theorem execCrcSum_endsInOneOutcome {i : Instr} (bytes : ByteSeq) (off n : Nat) (s : State) :
    EndsInOneOutcome i s (execCrcSum bytes off n s) := by
  unfold execCrcSum
  cases checksum s.crcTable bytes off n with
  | some c => exact succeed_endsInOneOutcome rfl [] _
  | none => exact refuse_endsInOneOutcome s _

theorem sendCommand_endsInOneOutcome {i : Instr} (op : Byte) (p : ByteSeq) (s : State) :
    EndsInOneOutcome i s (sendCommand op p s) := by
  unfold sendCommand
  cases buildCommandFrame s.crcTable op p with
  | some frame => exact succeed_endsInOneOutcome rfl _ _
  | none => exact refuse_endsInOneOutcome s _

theorem execVal_endsInOneOutcome (f : ByteSeq) (s : State) : EndsInOneOutcome (.val f) s (execVal f s) := by
  unfold execVal
  cases validate s.crcTable f with
  | ok v => exact succeed_endsInOneOutcome rfl [] _
  | error e => exact raiseError_endsInOneOutcome f s e

/-- R7 for everything but a response frame, whose bytes end in one outcome each. -/
theorem exec_endsInOneOutcome (i : Instr) (s : State) (h : ∀ op st p ck, i ≠ .frameRsp op st p ck) :
    EndsInOneOutcome i s (exec i s) := by
  cases i with
  | crcInit => exact succeed_endsInOneOutcome rfl _ _
  | crcNib n => exact succeed_endsInOneOutcome rfl _ _
  | crcByte b => exact succeed_endsInOneOutcome rfl _ _
  | crcRead => exact succeed_endsInOneOutcome rfl _ _
  | crcSum bytes off n => exact execCrcSum_endsInOneOutcome bytes off n s
  | enc op p => exact sendCommand_endsInOneOutcome op (p.getD []) s
  | val f => exact execVal_endsInOneOutcome f s
  | rxByte b => exact succeed_endsInOneOutcome rfl _ _
  | synClear => exact succeed_endsInOneOutcome rfl _ _
  | reset => exact succeed_endsInOneOutcome rfl _ _
  | reserved9 => exact refuse_endsInOneOutcome s _
  | reservedA => exact refuse_endsInOneOutcome s _
  | reservedB => exact refuse_endsInOneOutcome s _
  | reservedC => exact refuse_endsInOneOutcome s _
  | reservedD => exact refuse_endsInOneOutcome s _
  | reservedE => exact refuse_endsInOneOutcome s _
  | frameCmd op p => exact sendCommand_endsInOneOutcome op p s
  | frameRsp op st p ck => exact absurd rfl (h op st p ck)

/-- Settles O11, by how each instruction ends; what sends a command frame ends as `ENC` does, so only the response
frame has to be left out. -/
theorem everyOperationHasOneOutcome : Obligations.EveryOperationHasOneOutcome :=
  fun i s _ h => exec_endsInOneOutcome i s h

end Sys2Proof.Machine
end

section
/-! The reserved operations' results (30_encoding.md R59). All six share one result, proved once over `refuse`. -/
namespace Sys2Proof.Machine

/-- A refusal's frame: only the log grows, by the one outcome and no event (60_exceptions.md R163). -/
theorem refuse_eq (s : State) (r : RefuseReason) :
    refuse s r = .next { s with log := s.log ++ [.outcome (.refuse r)] } := rfl

/-- The six reserved select codes have one meaning (30_encoding.md R59). -/
theorem exec_eq_refuse_of_isReserved (i : Instr) (s : State) (h : i.isReserved = true) :
    exec i s = refuse s .reservedOperation := by
  cases i with
  | reserved9 | reservedA | reservedB | reservedC | reservedD | reservedE => rfl
  | crcInit | crcNib | crcByte | crcRead | crcSum | enc | val | rxByte | synClear | reset | frameCmd | frameRsp =>
    exact absurd h Bool.false_ne_true

theorem exec_of_isReserved (i : Instr) (s : State) (h : i.isReserved = true) :
    exec i s = .next { s with log := s.log ++ [.outcome (.refuse .reservedOperation)] } :=
  (exec_eq_refuse_of_isReserved i s h).trans (refuse_eq s _)

/-- Settles O47, by the one result of every reserved instruction, at each of the six. -/
theorem reservedOperationsResult : Obligations.ReservedOperationsResult := fun s =>
  ⟨exec_of_isReserved .reserved9 s rfl, exec_of_isReserved .reservedA s rfl, exec_of_isReserved .reservedB s rfl,
    exec_of_isReserved .reservedC s rfl, exec_of_isReserved .reservedD s rfl, exec_of_isReserved .reservedE s rfl⟩

end Sys2Proof.Machine
end

section
/-! The nibble step on unbounded integers (40_crc.md R71). Both forms of the rule differ only in where bits 19 to 16
are dropped: after the XOR, or from the shifted value before it. -/
namespace Sys2Proof.Machine

theorem topNibble_toNat (c : Word) : (topNibble c).toNat = c.toNat >>> 12 := by
  have hlt : c.toNat >>> 12 < 2 ^ 4 := by
    have := c.isLt
    rw [Nat.shiftRight_eq_div_pow]; omega
  rw [topNibble_eq, BitVec.extractLsb'_toNat, Nat.mod_eq_of_lt hlt]

/-- The table read at a nibble is the list read at its number. -/
theorem tableEntry_eq_getD (t : CrcTable) (i : Nibble) : tableEntry t i = t.toList.getD i.toNat 0 := by
  have hi : i.toNat < t.toList.length := by rw [Vector.length_toList]; exact i.isLt
  rw [List.getD_eq_getElem _ _ hi]
  rfl

/-- The shifted running CRC fits the 20 bits of the step's intermediate value. -/
theorem shiftLeft_four_lt (c : Word) : c.toNat <<< 4 < 2 ^ 20 := by
  have := c.isLt
  rw [Nat.shiftLeft_eq]; omega

theorem shiftLeft_four_mod (c : Nat) : c <<< 4 % 2 ^ 16 = (c % 4096) <<< 4 := by
  rw [Nat.shiftLeft_eq, Nat.shiftLeft_eq]; omega

/-- R71's formula, with the cut to 16 bits as a remainder. -/
theorem crcStep_toNat (t : CrcTable) (c : Word) (n : Nibble) :
    (crcStep t c n).toNat =
      (((c.toNat <<< 4) ||| n.toNat) ^^^ (t.toList.getD (c.toNat >>> 12) 0).toNat) % 2 ^ 16 := by
  have hentry := tableEntry_eq_getD t (topNibble c)
  rw [topNibble_toNat] at hentry
  have hc : c.toNat % 2 ^ 20 = c.toNat := Nat.mod_eq_of_lt (by omega)
  have hn : n.toNat % 2 ^ 20 = n.toNat := Nat.mod_eq_of_lt (by omega)
  have he (e : Word) : e.toNat % 2 ^ 20 = e.toNat := Nat.mod_eq_of_lt (by omega)
  rw [crcStep_eq, hentry]
  simp only [BitVec.toNat_setWidth, BitVec.toNat_xor, BitVec.toNat_or, BitVec.toNat_shiftLeft, hc, hn, he,
    Nat.mod_eq_of_lt (shiftLeft_four_lt c)]

/-- R71's second form: the bits that the mask would drop are the ones `c mod 4096` leaves out. -/
theorem crcStep_toNat_masked_first (t : CrcTable) (c : Word) (n : Nibble) :
    (crcStep t c n).toNat =
      (((c.toNat % 4096) <<< 4) ||| n.toNat) ^^^ (t.toList.getD (c.toNat >>> 12) 0).toNat := by
  have hn : n.toNat % 2 ^ 16 = n.toNat := Nat.mod_eq_of_lt (by omega)
  have he (e : Word) : e.toNat % 2 ^ 16 = e.toNat := Nat.mod_eq_of_lt e.isLt
  rw [crcStep_toNat, Nat.xor_mod_two_pow, Nat.or_mod_two_pow, shiftLeft_four_mod, hn, he]

/-- Settles O12: the 20-bit value loses nothing, and the mask 0xFFFF is the remainder by 2^16. -/
theorem nibbleStepFormula : Obligations.NibbleStepFormula := fun t c n =>
  ⟨(crcStep_toNat t c n).trans (Nat.and_two_pow_sub_one_eq_mod _ 16).symm, crcStep_toNat_masked_first t c n⟩

end Sys2Proof.Machine
end

section
/-! The results of the `CRC` unit's operations (40_crc.md R72 to R76). Each ends in one of two ways: `CRC.ACC` takes a
new value, or only the log grows. -/
namespace Sys2Proof.Machine

/-- How `CRC.INIT`, `CRC.NIB` and `CRC.BYTE` end: `CRC.ACC` and the log change and nothing else. -/
theorem succeed_setAcc_eq (s : State) (c : Word) :
    succeed (s.setAcc c) [] .none = .next { s with crcAcc := c, log := s.log ++ [.outcome (.ok .none)] } := rfl

/-- How `CRC.READ` and `CRC.SUM` end: only the log grows. -/
theorem succeed_nil_eq (s : State) (v : Value) :
    succeed s [] v = .next { s with log := s.log ++ [.outcome (.ok v)] } := rfl

/-- Settles O13, by the shared ending of what writes `CRC.ACC`. -/
theorem crcInitResult : Obligations.CrcInitResult := fun s => ⟨rfl, succeed_setAcc_eq s _⟩

/-- `CRC.NIB`'s next state (40_crc.md R73). -/
theorem exec_crcNib (n : Nibble) (s : State) :
    exec (.crcNib n) s =
      .next { s with crcAcc := crcStep s.crcTable s.crcAcc n, log := s.log ++ [.outcome (.ok .none)] } :=
  succeed_setAcc_eq s _

/-- Settles O14, by `CRC.NIB`'s next state. -/
theorem crcNibResult : Obligations.CrcNibResult := fun n s => ⟨rfl, exec_crcNib n s⟩

theorem hi4_eq_ofNat (b : Byte) : hi4 b = BitVec.ofNat 4 (b.toNat / 16) := by
  rw [← hi4_toNat, BitVec.ofNat_toNat, BitVec.setWidth_eq]

theorem lo4_eq_ofNat (b : Byte) : lo4 b = BitVec.ofNat 4 (b.toNat % 16) := by
  rw [← lo4_toNat, BitVec.ofNat_toNat, BitVec.setWidth_eq]

/-- `CRC.BYTE`'s next state: two nibble steps, the high nibble first (40_crc.md R74). -/
theorem exec_crcByte (b : Byte) (s : State) :
    exec (.crcByte b) s =
      .next { s with
        crcAcc := crcStep s.crcTable (crcStep s.crcTable s.crcAcc (BitVec.ofNat 4 (b.toNat / 16)))
          (BitVec.ofNat 4 (b.toNat % 16)),
        log := s.log ++ [.outcome (.ok .none)] } := by
  rw [← hi4_eq_ofNat, ← lo4_eq_ofNat]
  exact succeed_setAcc_eq s _

/-- Two `CRC.NIB`s in a row: one nibble step after the other, and one outcome for each. -/
theorem execAll_crcNib_crcNib (m n : Nibble) (s : State) :
    execAll [.crcNib m, .crcNib n] s =
      .next { s with
        crcAcc := crcStep s.crcTable (crcStep s.crcTable s.crcAcc m) n,
        log := s.log ++ [.outcome (.ok .none)] ++ [.outcome (.ok .none)] } := by
  simp only [execAll, exec_crcNib]

/-- Settles O15: `CRC.BYTE`'s next state has the registers of the two `CRC.NIB`s' and differs in the log alone. -/
theorem crcByteResult : Obligations.CrcByteResult := fun b s =>
  ⟨rfl, exec_crcByte b s, _, _, exec_crcByte b s, execAll_crcNib_crcNib _ _ s, rfl, rfl⟩

/-- Settles O16, by the ending that leaves every register alone. -/
theorem crcReadResult : Obligations.CrcReadResult := fun s => ⟨rfl, succeed_nil_eq s _⟩

/-- A slice inside its sequence is the bytes at its offsets, in increasing order. -/
theorem slice_eq_map_range' (bytes : ByteSeq) (off n : Nat) (h : off + n ≤ bytes.length) :
    slice bytes off (off + n) = (List.range' off n).map (bytes.getD · 0) := by
  apply List.ext_getElem
  · rw [slice_length _ _ _ h, List.length_map, List.length_range']; omega
  · intro k hk _
    rw [slice_length _ _ _ h] at hk
    have hin : off + k < bytes.length := by omega
    simp [slice, hin]

/-- Inside its buffer, `checksum` is the document's loop over the offsets (40_crc.md R76). -/
theorem checksum_eq_foldl_range' (t : CrcTable) (bytes : ByteSeq) (off n : Nat) (h : off + n ≤ bytes.length) :
    checksum t bytes off n =
      some ((List.range' off n).foldl (fun c i => crcByteStep t c (bytes.getD i 0)) 0xFFFF#16) := by
  rw [checksum, if_pos h, slice_eq_map_range' bytes off n h, crcFold, List.foldl_map]

theorem execCrcSum_of_checksum_eq_some {bytes : ByteSeq} {off n : Nat} {s : State} {c : Word}
    (h : checksum s.crcTable bytes off n = some c) :
    execCrcSum bytes off n s = .next { s with log := s.log ++ [.outcome (.ok (.word c))] } := by
  simp only [execCrcSum, h, succeed_nil_eq]

theorem execCrcSum_of_checksum_eq_none {bytes : ByteSeq} {off n : Nat} {s : State}
    (h : checksum s.crcTable bytes off n = none) :
    execCrcSum bytes off n s = .next { s with log := s.log ++ [.outcome (.refuse .rangeOutOfBounds)] } := by
  simp only [execCrcSum, h, refuse_eq]

/-- Settles O17, by whether the range stays inside its buffer: the loop's value, or no checksum at all. -/
theorem crcSumResult : Obligations.CrcSumResult := fun bytes off n s =>
  ⟨rfl,
    fun hin => execCrcSum_of_checksum_eq_some (checksum_eq_foldl_range' s.crcTable bytes off n hin),
    fun hout => execCrcSum_of_checksum_eq_none ((checksum_eq_none s.crcTable bytes off n).mpr hout)⟩

end Sys2Proof.Machine
end

section
/-! What sending a command frame does (41_framer.md R85 to R87), with the frame's bytes written out. It is stated for
`sendCommand`, which is all that `ENC` runs, so that it serves the wire format `CMD` as well. -/
namespace Sys2Proof.Machine

theorem hi8_eq_ofNat (v : Word) : hi8 v = BitVec.ofNat 8 (v.toNat / 256) := by
  rw [← hi8_toNat, BitVec.ofNat_toNat, BitVec.setWidth_eq]

theorem lo8_eq_ofNat (v : Word) : lo8 v = BitVec.ofNat 8 (v.toNat % 256) := by
  rw [← lo8_toNat, BitVec.ofNat_toNat, BitVec.setWidth_eq]

/-- The checksum field's two bytes as quotient and remainder (30_encoding.md R52). -/
theorem be16Bytes_eq_ofNat (v : Word) :
    be16Bytes v = [BitVec.ofNat 8 (v.toNat / 256), BitVec.ofNat 8 (v.toNat % 256)] := by
  rw [be16Bytes, hi8_eq_ofNat, lo8_eq_ofNat]

/-- The command frame as a value (41_framer.md R86). -/
theorem commandFrame_eq_ofNat (t : CrcTable) (op : Byte) (p : ByteSeq) :
    commandFrame t op p =
      let covered := BitVec.ofNat 8 p.length :: op :: p
      let c := crcFold t 0xFFFF#16 covered
      0xFF#8 :: (covered ++ [BitVec.ofNat 8 (c.toNat / 256), BitVec.ofNat 8 (c.toNat % 256)]) := by
  rw [commandFrame, be16Bytes_eq_ofNat, commandCovered]

/-- A frame that fits is sent once and returned, and only the log grows (41_framer.md R85, R86). -/
theorem sendCommand_of_length_le (op : Byte) (p : ByteSeq) (s : State) (h : p.length ≤ 248) :
    sendCommand op p s =
      let covered := BitVec.ofNat 8 p.length :: op :: p
      let c := crcFold s.crcTable 0xFFFF#16 covered
      let frame := 0xFF#8 :: (covered ++ [BitVec.ofNat 8 (c.toNat / 256), BitVec.ofNat 8 (c.toNat % 256)])
      .next { s with log := s.log ++ [.event (.tx frame), .outcome (.ok (.bytes frame))] } := by
  rw [sendCommand_eq op p s h, commandFrame_eq_ofNat]
  rfl

/-- A payload that is too long is refused with no event, and only the log grows (41_framer.md R87). -/
theorem sendCommand_of_lt_length (op : Byte) (p : ByteSeq) (s : State) (h : 248 < p.length) :
    sendCommand op p s = .next { s with log := s.log ++ [.outcome (.refuse .payloadTooLong)] } :=
  sendCommand_refused op p s h

/-- Settles O23: `ENC` sends its payload as a command frame, an absent payload being the empty one, so its two results
are those of sending, by whether the payload fits. -/
theorem encResult : Obligations.EncResult := fun opcode payload s =>
  ⟨rfl, sendCommand_of_length_le opcode (payload.getD []) s, sendCommand_of_lt_length opcode (payload.getD []) s⟩

end Sys2Proof.Machine
end

section
/-! What `VAL` answers (42_deframer.md R96 to R99), with the document's offsets written out. A sequence that passes
checks (a) and (b) is a response frame, so what stands at each offset is one of that frame's parts, and its checksum
alone is left to decide. -/
namespace Sys2Proof.Machine

/-- An error of `VAL` is answered and nothing else changes (42_deframer.md R95, 60_exceptions.md R168). -/
theorem execVal_of_validate_eq_error {f : ByteSeq} {s : State} {e : FrameError}
    (h : validate s.crcTable f = .error e) :
    execVal f s = .next { s with log := s.log ++ [.outcome (.raise e)] } := by
  rw [execVal_eq, h]
  rfl

/-- The fields of a frame that passed are answered and nothing else changes (42_deframer.md R95, R106). -/
theorem execVal_of_validate_eq_ok {f : ByteSeq} {s : State} {v : ValidatedFrame} (h : validate s.crcTable f = .ok v) :
    execVal f s = .next { s with log := s.log ++ [.outcome (.ok (.validated v))] } := by
  rw [execVal_eq, h]
  rfl

/-- Settles O28, by `VAL`'s answer where check (a) fails. -/
theorem valBadDelimiter : Obligations.ValBadDelimiter := fun f s h =>
  execVal_of_validate_eq_error (validate_badDelimiter s.crcTable f h)

/-- Settles O29, by `VAL`'s answer where check (a) passes and check (b) fails. -/
theorem valLengthMismatch : Obligations.ValLengthMismatch := fun f s h0 h =>
  execVal_of_validate_eq_error (validate_lengthMismatch s.crcTable f h0 h)

/-! What stands at the offsets of a response frame. -/

theorem responseFrame_drop_one_take (op : Byte) (st : Word) (p : ByteSeq) (ck : Word) :
    ((responseFrame op st p ck).drop 1).take (p.length + 4) = responseCovered op st p :=
  List.take_left' (responseCovered_length op st p)

theorem responseFrame_drop_three_take (op : Byte) (st : Word) (p : ByteSeq) (ck : Word) :
    ((responseFrame op st p ck).drop 3).take (p.length + 2) = hi8 st :: lo8 st :: p :=
  List.take_left' (l₁ := hi8 st :: lo8 st :: p) rfl

theorem responseFrame_drop_five_take (op : Byte) (st : Word) (p : ByteSeq) (ck : Word) :
    ((responseFrame op st p ck).drop 5).take p.length = p :=
  List.take_left' rfl

theorem responseFrame_getElem?_two (op : Byte) (st : Word) (p : ByteSeq) (ck : Word) :
    (responseFrame op st p ck)[2]? = some op := rfl

theorem responseFrame_getElem?_three (op : Byte) (st : Word) (p : ByteSeq) (ck : Word) :
    (responseFrame op st p ck)[3]? = some (hi8 st) := rfl

theorem responseFrame_getElem?_four (op : Byte) (st : Word) (p : ByteSeq) (ck : Word) :
    (responseFrame op st p ck)[4]? = some (lo8 st) := rfl

/-- From offset `N + 5` on, only the checksum field is left. -/
theorem responseFrame_getElem?_checksum (op : Byte) (st : Word) (p : ByteSeq) (ck : Word) (k : Nat) :
    (responseFrame op st p ck)[p.length + 5 + k]? = (be16Bytes ck)[k]? := by
  have hlen : (Config.delim :: responseCovered op st p).length = p.length + 5 := by simp
  rw [← hlen, responseFrame, ← List.cons_append, List.getElem?_append_right (Nat.le_add_right _ _),
    Nat.add_sub_cancel_left]

/-- Checks (a) and (b) pass, and `high` and `low` are the last two bytes: the sequence is a response frame whose
checksum field they are. -/
theorem exists_responseFrame_of_checksum (f : ByteSeq) (n high low : Byte) (h0 : f[0]? = some Config.delim)
    (h1 : f[1]? = some n) (hlen : f.length = n.toNat + 7) (hh : f[n.toNat + 5]? = some high)
    (hl : f[n.toNat + 6]? = some low) :
    ∃ op st p, f = responseFrame op st p (be16 high low) ∧ p.length = n.toNat := by
  obtain ⟨op, st, p, ck, rfl, hp⟩ := exists_responseFrame f n h0 h1 hlen
  rw [← hp] at hh hl
  have hhigh : hi8 ck = high := Option.some.inj ((responseFrame_getElem?_checksum op st p ck 0).symm.trans hh)
  have hlow : lo8 ck = low := Option.some.inj ((responseFrame_getElem?_checksum op st p ck 1).symm.trans hl)
  exact ⟨op, st, p, by rw [← hhigh, ← hlow, be16_hi8_lo8], hp⟩

/-- Check (c), on words and on numbers (42_deframer.md R98). -/
theorem be16_eq_iff_toNat (high low : Byte) (c : Word) :
    be16 high low = c ↔ c.toNat = high.toNat * 256 + low.toNat := by
  rw [← be16_toNat, BitVec.toNat_inj, eq_comm]

/-- Settles O30: the sequence is a response frame, and its checksum field is not the fold over what it covers. -/
theorem valCrcMismatch : Obligations.ValCrcMismatch := by
  intro f n high low s h0 h1 hlen hh hl hne
  obtain ⟨op, st, p, rfl, hp⟩ := exists_responseFrame_of_checksum f n high low h0 h1 hlen hh hl
  have hle : p.length ≤ 255 := by omega
  rw [← hp, responseFrame_drop_one_take, ne_eq, ← be16_eq_iff_toNat] at hne
  exact execVal_of_validate_eq_error ((validate_responseFrame _ _ _ _ _ hle).trans (if_neg hne))

/-- Settles O31: the sequence is a response frame whose checksum is right, and each field is the part of that frame
that stands at its offsets. -/
theorem valExposesTheFields : Obligations.ValExposesTheFields := by
  intro f n opcode statusHigh statusLow high low s h0 h1 hlen h2 h3 h4 hh hl heq
  obtain ⟨op, st, p, rfl, hp⟩ := exists_responseFrame_of_checksum f n high low h0 h1 hlen hh hl
  have hle : p.length ≤ 255 := by omega
  have hn : BitVec.ofNat 8 p.length = n := by rw [hp, BitVec.ofNat_toNat, BitVec.setWidth_eq]
  obtain rfl : op = opcode := Option.some.inj ((responseFrame_getElem?_two ..).symm.trans h2)
  obtain rfl : hi8 st = statusHigh := Option.some.inj ((responseFrame_getElem?_three ..).symm.trans h3)
  obtain rfl : lo8 st = statusLow := Option.some.inj ((responseFrame_getElem?_four ..).symm.trans h4)
  have hst : BitVec.ofNat 16 ((hi8 st).toNat * 256 + (lo8 st).toNat) = st := be16_hi8_lo8 st
  rw [← hp, responseFrame_drop_one_take, ← be16_eq_iff_toNat] at heq
  rw [hst, ← hp, responseFrame_drop_five_take, responseFrame_drop_three_take, ← hn]
  exact execVal_of_validate_eq_ok ((validate_responseFrame _ _ _ _ _ hle).trans (if_pos heq))

end Sys2Proof.Machine
end

section
/-! The results of the synchronizer's operations (43_synchronizer.md R110 to R115). What an arriving byte does is
settled once, over what `synTake` answers; each phase then only says what that answer is. -/
namespace Sys2Proof.Machine

/-- `RX.BYTE`'s next state: `SYN.BUF` and the log change as `synTake` says, and nothing else does (R110). -/
theorem exec_rxByte_of_synTake_eq (b : Byte) (s : State) {buf : ByteSeq} {es : List Event}
    (h : synTake s.crcTable s.synBuf b = (buf, es)) :
    exec (.rxByte b) s = .next { s with
      synBuf := buf, log := s.log ++ (es.map Observation.event ++ [.outcome (.ok .none)]) } := by
  change Host.Outcome.next (s.rxByte b) = _
  rw [State.rxByte, h]
  rfl

/-- In HUNT only the delimiter is kept (R112). -/
theorem synTake_nil_eq (t : CrcTable) (b : Byte) :
    synTake t [] b = (if b = 0xFF#8 then [0xFF#8] else [], []) := by
  rw [synTake_hunt]
  by_cases hb : b = 0xFF#8
  · rw [if_pos hb, if_pos hb, hb]
  · rw [if_neg hb, if_neg hb]

/-- In BODY the byte that completes the candidate empties the buffer and delivers it (R114). -/
theorem synTake_of_completes (t : CrcTable) {buf : ByteSeq} {n : Byte} (b : Byte) (h1 : buf[1]? = some n)
    (hlen : buf.length + 1 = n.toNat + 7) :
    synTake t buf b = ([], [.deliver (buf ++ [b]) (validate t (buf ++ [b]))]) := by
  rw [synTake_body t buf n b h1, if_pos (List.length_append.trans hlen)]

/-- In BODY any other byte is collected (R114). -/
theorem synTake_of_not_completes (t : CrcTable) {buf : ByteSeq} {n : Byte} (b : Byte) (h1 : buf[1]? = some n)
    (hlen : buf.length + 1 ≠ n.toNat + 7) :
    synTake t buf b = (buf ++ [b], []) := by
  rw [synTake_body t buf n b h1, if_neg (fun h => hlen (List.length_append.symm.trans h))]

/-- Settles O37, by what an empty buffer keeps of the byte. -/
theorem rxByteInHunt : Obligations.RxByteInHunt := fun b s h =>
  exec_rxByte_of_synTake_eq b s (by rw [h, synTake_nil_eq])

/-- Settles O38, by what a buffer of one byte does with the next. -/
theorem rxByteInLen : Obligations.RxByteInLen := fun d b s h =>
  exec_rxByte_of_synTake_eq b s (by rw [h, synTake_len])

/-- Settles O39, by whether the byte completes the candidate. -/
theorem rxByteInBody : Obligations.RxByteInBody := fun _ b s h1 =>
  ⟨fun hlen => exec_rxByte_of_synTake_eq b s (synTake_of_completes s.crcTable b h1 hlen),
    fun hlen => exec_rxByte_of_synTake_eq b s (synTake_of_not_completes s.crcTable b h1 hlen)⟩

/-- How `SYN.CLEAR` ends: `SYN.BUF` and the log change and nothing else (R115). -/
theorem succeed_setBuf_eq (s : State) (buf : ByteSeq) :
    succeed (s.setBuf buf) [] .none = .next { s with synBuf := buf, log := s.log ++ [.outcome (.ok .none)] } := rfl

/-- Settles O40, by the ending of what writes `SYN.BUF` with no event. -/
theorem synClearResult : Obligations.SynClearResult := fun s => ⟨rfl, succeed_setBuf_eq s []⟩

end Sys2Proof.Machine
end

section
/-! The numbers of `VAL`'s results (60_exceptions.md R161). -/
namespace Sys2Proof.Machine

/-- Settles O36, by the equation of each result: the fields of a frame that passed do not enter into its number. -/
theorem resultCodesFollowTheChecks : Obligations.ResultCodesFollowTheChecks :=
  ⟨fun _ => rfl, rfl, rfl, rfl⟩

end Sys2Proof.Machine
end

section
/-! Reset (70_reset_and_hazards.md R180 and R181). `RESET` is the write of `CRC.ACC` followed by what `SYN.CLEAR` does,
so its result is that of the ending that writes `SYN.BUF` (R180, corner cases). -/
namespace Sys2Proof.Machine

@[simp] theorem synCnt_nil : synCnt [] = 0 := rfl

/-- The synchronizer with nothing collected hunts (10_state.md section 3). -/
@[simp] theorem synPhase_nil : synPhase [] = .hunt := rfl

/-- Settles O1: the registers hold their reset values, and phase and count are those of the empty buffer. -/
theorem resetHoldsSpecValues : Obligations.ResetHoldsSpecValues :=
  ⟨rfl, rfl, synPhase_nil, synCnt_nil⟩

/-- Settles O46, by the ending of what writes `SYN.BUF` with no event, from the state whose `CRC.ACC` is reset. -/
theorem resetResult : Obligations.ResetResult := fun s =>
  ⟨rfl, succeed_setBuf_eq (s.setAcc Config.crcInit) []⟩

end Sys2Proof.Machine
end

section
/-! The decoder and the encoder (30_encoding.md sections 1 and 4). What the decoder can answer is said once for each of
its three functions; each direction of the round trip is then read off. -/
namespace Sys2Proof.Machine

/-! The two wire formats. -/

theorem byte_ofNat_toNat (n : Nat) (h : n ≤ 255) : (BitVec.ofNat 8 n).toNat = n := by
  rw [BitVec.toNat_ofNat]; omega

theorem decodeCommandFrame_commandFrame (t : CrcTable) (op : Byte) (p : ByteSeq) (h : p.length ≤ 248) :
    decodeCommandFrame t (commandFrame t op p) = .ok (.frameCmd op p) := by
  have hn : (BitVec.ofNat 8 p.length).toNat = p.length := byte_ofNat_toNat _ (by omega)
  simp only [commandFrame, commandCovered, List.cons_append]
  simp [decodeCommandFrame, hn, h, be16Bytes, Config.ovhCmd]

theorem decodeResponseFrame_responseFrame (op : Byte) (st : Word) (p : ByteSeq) (ck : Word) (h : p.length ≤ 255) :
    decodeResponseFrame (responseFrame op st p ck) = .ok (.frameRsp op st p ck) := by
  have hn : (BitVec.ofNat 8 p.length).toNat = p.length := byte_ofNat_toNat _ h
  have hst : BitVec.ofNat 16 (beNat [hi8 st, lo8 st]) = st := by rw [beNat_pair]; simp
  simp only [responseFrame, responseCovered, be16Bytes, List.cons_append, List.nil_append]
  simp [decodeResponseFrame, hn, hst, Config.ovhRsp, Nat.add_comm 2 p.length]

/-- Only the bytes of a command frame decode as one. -/
theorem decodeCommandFrame_eq_ok {t : CrcTable} {bytes : ByteSeq} {i : Instr}
    (h : decodeCommandFrame t bytes = .ok i) :
    ∃ op p, i = .frameCmd op p ∧ p.length ≤ 248 ∧ bytes = commandFrame t op p := by
  match bytes, h with
  | d :: n :: op :: rest, h =>
    simp only [decodeCommandFrame] at h
    split at h
    · rename_i hf
      obtain ⟨rfl, hmax, hlen, hstored⟩ := hf
      simp only [List.length_cons, Config.ovhCmd] at hlen
      have hp : (rest.take n.toNat).length = n.toNat := by simp; omega
      have hn : BitVec.ofNat 8 (rest.take n.toNat).length = n := by rw [hp]; simp
      cases h
      refine ⟨op, rest.take n.toNat, rfl, hp.trans_le hmax, ?_⟩
      rw [commandFrame, commandCovered, hn, ← hstored]
      simp
    · cases h

/-- Only the bytes of a response frame, its checksum right or wrong, decode as one. -/
theorem decodeResponseFrame_eq_ok {bytes : ByteSeq} {i : Instr} (h : decodeResponseFrame bytes = .ok i) :
    ∃ op st p ck, i = .frameRsp op st p ck ∧ p.length ≤ 255 ∧ bytes = responseFrame op st p ck := by
  match bytes, h with
  | d :: n :: op :: rest, h =>
    have hf : d = Config.delim ∧ (d :: n :: op :: rest).length = n.toNat + 7 := by
      by_contra hf
      simp only [decodeResponseFrame, if_neg hf] at h
      cases h
    obtain ⟨rfl, hlen⟩ := hf
    obtain ⟨op', st, p, ck, hf, hp⟩ := exists_responseFrame _ n rfl rfl hlen
    have hle : p.length ≤ 255 := by omega
    rw [hf, decodeResponseFrame_responseFrame op' st p ck hle] at h
    cases h
    exact ⟨op', st, p, ck, rfl, hle, hf⟩

/-! The operations. -/

/-- What an operation's select code and operands decode to is well formed, and unless it is reserved it encodes to
them: one case per row of the table of select codes. -/
theorem decodeOperation_eq_ok {code : BitVec 4} {o : Operands} {i : Instr} (h : decodeOperation code o = .ok i) :
    i.wellFormed = true ∧ (i.isReserved = false → ∀ t, encode t i = .op code o) := by
  unfold decodeOperation at h
  split at h <;> cases h <;> simp [Instr.wellFormed, Instr.isReserved, encode]

/-- Settles O5: an operation's row gives it back by evaluation, and the two wire formats by their round trips. -/
theorem decodeInvertsEncode : Obligations.DecodeInvertsEncode := by
  intro t i hwf
  cases i with
  | frameCmd op p => exact decodeCommandFrame_commandFrame t op p (of_decide_eq_true hwf)
  | frameRsp op st p ck => exact decodeResponseFrame_responseFrame op st p ck (of_decide_eq_true hwf)
  | crcInit | crcNib | crcByte | crcRead | crcSum | enc | val | rxByte | synClear | reset
  | reserved9 | reservedA | reservedB | reservedC | reservedD | reservedE => rfl

/-- Settles O6, by what each of the decoder's three functions can answer. -/
theorem encodeInvertsDecode : Obligations.EncodeInvertsDecode := by
  intro t j i h hres
  match j, h with
  | .op code o, h => exact (decodeOperation_eq_ok h).2 hres t
  | .wire .toDevice bytes, h =>
    obtain ⟨op, p, rfl, -, rfl⟩ := decodeCommandFrame_eq_ok h
    rfl
  | .wire .toHost bytes, h =>
    obtain ⟨op, st, p, ck, rfl, -, rfl⟩ := decodeResponseFrame_eq_ok h
    rfl

/-- Settles O7, by what each of the decoder's three functions can answer. -/
theorem decodedIsWellFormed : Obligations.DecodedIsWellFormed := by
  intro t j i h
  match j, h with
  | .op code o, h => exact (decodeOperation_eq_ok h).1
  | .wire .toDevice bytes, h =>
    obtain ⟨op, p, rfl, hp, -⟩ := decodeCommandFrame_eq_ok h
    exact decide_eq_true hp
  | .wire .toHost bytes, h =>
    obtain ⟨op, st, p, ck, rfl, hp, -⟩ := decodeResponseFrame_eq_ok h
    exact decide_eq_true hp

/-! Operands of another class. -/

theorem decodeOperation_of_ne_z {code : BitVec 4} (hc : code = 0x0 ∨ code = 0x3 ∨ code = 0x8 ∨ code = 0xF)
    {o : Operands} (h : o ≠ .z) : decodeOperation code o = .error (.operandClass code) := by
  obtain rfl | rfl | rfl | rfl := hc <;> cases o with
    | z => exact absurd rfl h
    | n4 | b8 | rng | opp | frm => rfl

theorem decodeOperation_of_ne_n4 {o : Operands} (h : ∀ n, o ≠ .n4 n) :
    decodeOperation 0x1 o = .error (.operandClass 0x1) := by
  cases o with
  | n4 n => exact absurd rfl (h n)
  | z | b8 | rng | opp | frm => rfl

theorem decodeOperation_of_ne_b8 {code : BitVec 4} (hc : code = 0x2 ∨ code = 0x7) {o : Operands}
    (h : ∀ b, o ≠ .b8 b) : decodeOperation code o = .error (.operandClass code) := by
  obtain rfl | rfl := hc <;> cases o with
    | b8 b => exact absurd rfl (h b)
    | z | n4 | rng | opp | frm => rfl

theorem decodeOperation_of_ne_rng {o : Operands} (h : ∀ bytes off n, o ≠ .rng bytes off n) :
    decodeOperation 0x4 o = .error (.operandClass 0x4) := by
  cases o with
  | rng bytes off n => exact absurd rfl (h bytes off n)
  | z | n4 | b8 | opp | frm => rfl

theorem decodeOperation_of_ne_opp {o : Operands} (h : ∀ opcode payload, o ≠ .opp opcode payload) :
    decodeOperation 0x5 o = .error (.operandClass 0x5) := by
  cases o with
  | opp opcode payload => exact absurd rfl (h opcode payload)
  | z | n4 | b8 | rng | frm => rfl

theorem decodeOperation_of_ne_frm {o : Operands} (h : ∀ frame, o ≠ .frm frame) :
    decodeOperation 0x6 o = .error (.operandClass 0x6) := by
  cases o with
  | frm frame => exact absurd rfl (h frame)
  | z | n4 | b8 | rng | opp => rfl

/-- Only wire frames can be ill formed. -/
theorem wellFormed_of_encode_eq_op {t : CrcTable} {i : Instr} {code : BitVec 4} {o : Operands}
    (h : encode t i = .op code o) : i.wellFormed = true := by
  cases i with
  | frameCmd | frameRsp => cases h
  | crcInit | crcNib | crcByte | crcRead | crcSum | enc | val | rxByte | synClear | reset
  | reserved9 | reservedA | reservedB | reservedC | reservedD | reservedE => rfl

/-- Settles O8, class by class; an issue some instruction encodes to decodes to that instruction, so it is not
rejected. -/
theorem wrongOperandClassIsRejected : Obligations.WrongOperandClassIsRejected := by
  intro t o
  refine ⟨decodeOperation_of_ne_z (by simp), decodeOperation_of_ne_n4, decodeOperation_of_ne_b8 (by simp),
    decodeOperation_of_ne_z (by simp), decodeOperation_of_ne_rng, decodeOperation_of_ne_opp,
    decodeOperation_of_ne_frm, decodeOperation_of_ne_b8 (by simp), decodeOperation_of_ne_z (by simp),
    decodeOperation_of_ne_z (by simp), ?_⟩
  intro code e i herr henc
  have hok := decodeInvertsEncode t i (wellFormed_of_encode_eq_op henc)
  rw [henc, herr] at hok
  cases hok

/-- Settles O3: each row of the table of select codes by evaluation. -/
theorem operationsDecodeByCode : Obligations.OperationsDecodeByCode := fun _ =>
  ⟨rfl, fun _ => rfl, fun _ => rfl, rfl, fun _ _ _ => rfl, fun _ _ => rfl, fun _ => rfl, fun _ => rfl, rfl, rfl⟩

/-- Settles O9: the words and frames are closed, and the decoder is evaluated on each. -/
theorem writtenOutWordsDecode : Obligations.WrittenOutWordsDecode := by
  unfold Obligations.WrittenOutWordsDecode
  decide

end Sys2Proof.Machine
end

section
/-! The step (00_scope.md section 4, 10_state.md R11): what it does in each of its three cases. -/
namespace Sys2Proof.Machine

theorem step_of_pending_nil {s : State} (h : s.pending = []) : step s = .next s := by
  simp only [step, h]

theorem step_of_decode_eq_ok {s : State} {j : Issue} {rest : List Issue} {i : Instr} (hp : s.pending = j :: rest)
    (hd : decode s.crcTable j = .ok i) : step s = exec i (s.setPending rest) := by
  simp only [step, hp, hd]

theorem step_of_decode_eq_error {s : State} {j : Issue} {rest : List Issue} {e : DecodeError}
    (hp : s.pending = j :: rest) (hd : decode s.crcTable j = .error e) :
    step s = .refused (.notAnInstruction e) := by
  simp only [step, hp, hd]

/-- A step that answers a next state either did nothing or executed an instruction with the rest of the port left. -/
theorem step_eq_next {s t : State} (h : step s = .next t) :
    t = s ∨ ∃ rest i, exec i (s.setPending rest) = .next t := by
  cases hp : s.pending with
  | nil =>
    rw [step_of_pending_nil hp] at h
    cases h
    exact .inl rfl
  | cons j rest =>
    cases hd : decode s.crcTable j with
    | ok i => exact .inr ⟨rest, i, (step_of_decode_eq_ok hp hd).symm.trans h⟩
    | error e =>
      rw [step_of_decode_eq_error hp hd] at h
      cases h

/-- Settles O10, by the step's three cases. -/
theorem stepRunsTheDecodedInstruction : Obligations.StepRunsTheDecodedInstruction := fun _ =>
  ⟨step_of_pending_nil, fun _ _ _ => step_of_decode_eq_ok, fun _ _ _ => step_of_decode_eq_error⟩

/-- A reserved code decodes to a reserved instruction whatever operands stand beside it (30_encoding.md R59). -/
theorem decodeOperation_of_reserved_code {code : BitVec 4} (hlow : 0x9#4 ≤ code) (hhigh : code ≤ 0xE#4)
    (o : Operands) : ∃ i, decodeOperation code o = .ok i ∧ i.isReserved = true := by
  have hcode : code = 0x9 ∨ code = 0xA ∨ code = 0xB ∨ code = 0xC ∨ code = 0xD ∨ code = 0xE := by
    revert code; decide
  obtain rfl | rfl | rfl | rfl | rfl | rfl := hcode <;> exact ⟨_, rfl, rfl⟩

/-- Settles O4: the code decodes to a reserved instruction, and every one of those is refused. -/
theorem reservedCodesAreRefused : Obligations.ReservedCodesAreRefused := by
  intro s code operands rest hlow hhigh hp
  obtain ⟨i, hd, hres⟩ := decodeOperation_of_reserved_code hlow hhigh operands
  rw [step_of_decode_eq_ok hp hd, exec_of_isReserved i _ hres]
  rfl

end Sys2Proof.Machine
end

section
/-! What an instruction does, said once for all of them: the value it leaves in each of the block's two registers, the
events it emits, and when it is refused. The statements about the whole machine follow from it. -/
namespace Sys2Proof.Machine

/-! The registers after an instruction. Neither definition reads the other register: that is 10_state.md section 2. -/

/-- `CRC.ACC` after an instruction (10_state.md R12). -/
def accAfter (t : CrcTable) (acc : Word) : Instr → Word
  | .crcInit | .reset => Config.crcInit
  | .crcNib n => crcStep t acc n
  | .crcByte b => crcByteStep t acc b
  | .crcRead | .crcSum _ _ _ | .enc _ _ | .val _ | .rxByte _ | .synClear => acc
  | .reserved9 | .reservedA | .reservedB | .reservedC | .reservedD | .reservedE => acc
  | .frameCmd _ _ | .frameRsp _ _ _ _ => acc

/-- `SYN.BUF` after bytes have arrived (43_synchronizer.md R110, 30_encoding.md R62). -/
def bufAfterBytes (t : CrcTable) (buf : ByteSeq) (bytes : ByteSeq) : ByteSeq :=
  bytes.foldl (fun buf b => (synTake t buf b).1) buf

/-- `SYN.BUF` after an instruction (10_state.md R14). -/
def bufAfter (t : CrcTable) (buf : ByteSeq) : Instr → ByteSeq
  | .rxByte b => (synTake t buf b).1
  | .synClear | .reset => []
  | .frameRsp op st p ck => bufAfterBytes t buf (responseFrame op st p ck)
  | .crcInit | .crcNib _ | .crcByte _ | .crcRead | .crcSum _ _ _ | .enc _ _ | .val _ | .frameCmd _ _ => buf
  | .reserved9 | .reservedA | .reservedB | .reservedC | .reservedD | .reservedE => buf

theorem accAfter_of_writesAcc_eq_false (t : CrcTable) (acc : Word) {i : Instr} (h : i.writesAcc = false) :
    accAfter t acc i = acc := by
  cases i with
  | crcInit | crcNib | crcByte | reset => cases h
  | crcRead | crcSum | enc | val | rxByte | synClear | frameCmd | frameRsp
  | reserved9 | reservedA | reservedB | reservedC | reservedD | reservedE => rfl

theorem bufAfter_of_writesBuf_eq_false (t : CrcTable) (buf : ByteSeq) {i : Instr} (h : i.writesBuf = false) :
    bufAfter t buf i = buf := by
  cases i with
  | rxByte | synClear | reset | frameRsp => cases h
  | crcInit | crcNib | crcByte | crcRead | crcSum | enc | val | frameCmd
  | reserved9 | reservedA | reservedB | reservedC | reservedD | reservedE => rfl

theorem rxBytes_synBuf (s : State) (bytes : ByteSeq) :
    (s.rxBytes bytes).synBuf = bufAfterBytes s.crcTable s.synBuf bytes := by
  induction bytes generalizing s with
  | nil => rfl
  | cons b bytes ih => exact ih (s.rxByte b)

theorem exec_frameRsp (op : Byte) (st : Word) (p : ByteSeq) (ck : Word) (s : State) :
    exec (.frameRsp op st p ck) s = .next (s.rxBytes (responseFrame op st p ck)) := rfl

/-! Refusals (60_exceptions.md R163). -/

theorem checksum_of_length_lt (t : CrcTable) {bytes : ByteSeq} {off n : Nat} (h : bytes.length < off + n) :
    checksum t bytes off n = none :=
  (checksum_eq_none t bytes off n).mpr h

theorem checksum_of_not_length_lt (t : CrcTable) {bytes : ByteSeq} {off n : Nat} (h : ¬ bytes.length < off + n) :
    checksum t bytes off n = some (crcFold t Config.crcInit (slice bytes off (off + n))) :=
  if_pos (not_lt.mp h)

theorem refusedFor_crcSum (bytes : ByteSeq) (off n : Nat) :
    refusedFor (.crcSum bytes off n) = if bytes.length < off + n then some .rangeOutOfBounds else none := rfl

theorem refusedFor_enc (op : Byte) (p : Option ByteSeq) :
    refusedFor (.enc op p) = if 248 < (p.getD []).length then some .payloadTooLong else none := rfl

theorem refusedFor_frameCmd (op : Byte) (p : ByteSeq) :
    refusedFor (.frameCmd op p) = if 248 < p.length then some .payloadTooLong else none := rfl

/-- Where a precondition fails the instruction ends as a refusal for the reason given. -/
theorem exec_of_refusedFor_eq_some {i : Instr} {r : RefuseReason} (h : refusedFor i = some r) (s : State) :
    exec i s = refuse s r := by
  cases i with
  | crcSum bytes off n =>
    rw [refusedFor_crcSum, Option.ite_none_right_eq_some] at h
    obtain ⟨hout, ⟨⟩⟩ := h
    exact execCrcSum_of_checksum_eq_none (checksum_of_length_lt s.crcTable hout)
  | enc op p =>
    rw [refusedFor_enc, Option.ite_none_right_eq_some] at h
    obtain ⟨hlong, ⟨⟩⟩ := h
    exact sendCommand_refused op (p.getD []) s hlong
  | frameCmd op p =>
    rw [refusedFor_frameCmd, Option.ite_none_right_eq_some] at h
    obtain ⟨hlong, ⟨⟩⟩ := h
    exact sendCommand_refused op p s hlong
  | reserved9 | reservedA | reservedB | reservedC | reservedD | reservedE => cases h; rfl
  | crcInit | crcNib | crcByte | crcRead | val | rxByte | synClear | reset | frameRsp => cases h

/-- What can be refused writes neither register. -/
theorem writes_nothing_of_refusedFor_eq_some {i : Instr} {r : RefuseReason} (h : refusedFor i = some r) :
    i.writesAcc = false ∧ i.writesBuf = false := by
  cases i with
  | crcSum | enc | frameCmd | reserved9 | reservedA | reservedB | reservedC | reservedD | reservedE =>
    exact ⟨rfl, rfl⟩
  | crcInit | crcNib | crcByte | crcRead | val | rxByte | synClear | reset | frameRsp => cases h

/-! Events. -/

/-- The range a command frame's checksum field covers (41_framer.md R89). -/
theorem checksum_commandFrame (t : CrcTable) (op : Byte) (p : ByteSeq) :
    checksum t (commandFrame t op p) 1 (p.length + 2) = some (crcFold t Config.crcInit (commandCovered op p)) := by
  rw [← commandCovered_length op p]
  exact checksum_append t [Config.delim] (commandCovered op p) _

/-- Every command frame the encoder builds meets the command-frame invariant (41_framer.md R89). -/
theorem commandOk_commandFrame (t : CrcTable) (op : Byte) (p : ByteSeq) (h : p.length ≤ 248) :
    CommandOk t (commandFrame t op p) := by
  have hn : (BitVec.ofNat 8 p.length).toNat = p.length := byte_ofNat_toNat _ (by omega)
  have hmem := memRead_two_append (Config.delim :: commandCovered op p)
    (hi8 (crcFold t Config.crcInit (commandCovered op p))) (lo8 (crcFold t Config.crcInit (commandCovered op p))) []
  rw [List.length_cons, commandCovered_length, be16_hi8_lo8] at hmem
  refine ⟨rfl, BitVec.ofNat 8 p.length, rfl, ?_, ?_, ?_⟩
  · rw [hn]; exact commandFrame_length t op p
  · rw [hn]; exact h
  · rw [hn, checksum_commandFrame]; exact hmem

/-- How every instruction that is not refused ends, a response frame aside: the registers hold their values after it,
its events are ones the block may emit, and its outcome is no refusal. -/
theorem exec_of_refusedFor_eq_none {i : Instr} (hr : refusedFor i = none) (hi : ∀ op st p ck, i ≠ .frameRsp op st p ck)
    (s : State) :
    ∃ es o, exec i s = .next (((s.setAcc (accAfter s.crcTable s.crcAcc i)).setBuf
        (bufAfter s.crcTable s.synBuf i)).record es o) ∧
      (synInv s.synBuf = true → ∀ e ∈ es, EventOk s.crcTable e) ∧ ∀ r, o ≠ .refuse r := by
  cases i with
  | crcInit | crcNib | crcByte | crcRead | synClear | reset => exact ⟨[], .ok _, rfl, by simp, by simp⟩
  | crcSum bytes off n =>
    rw [refusedFor_crcSum, ite_eq_right_iff] at hr
    have hin := checksum_of_not_length_lt s.crcTable (fun h => Option.some_ne_none _ (hr h))
    exact ⟨[], .ok _, execCrcSum_of_checksum_eq_some hin, by simp, by simp⟩
  | enc op p =>
    rw [refusedFor_enc, ite_eq_right_iff] at hr
    have hp : (p.getD []).length ≤ 248 := not_lt.mp fun h => Option.some_ne_none _ (hr h)
    exact ⟨[.tx _], .ok _, sendCommand_eq op (p.getD []) s hp,
      by simpa [EventOk] using fun _ => commandOk_commandFrame s.crcTable op (p.getD []) hp, by simp⟩
  | frameCmd op p =>
    rw [refusedFor_frameCmd, ite_eq_right_iff] at hr
    have hp : p.length ≤ 248 := not_lt.mp fun h => Option.some_ne_none _ (hr h)
    exact ⟨[.tx _], .ok _, sendCommand_eq op p s hp,
      by simpa [EventOk] using fun _ => commandOk_commandFrame s.crcTable op p hp, by simp⟩
  | val f =>
    refine ⟨[], _, execVal_eq f s, by simp, ?_⟩
    cases validate s.crcTable f <;> simp
  | rxByte b => exact ⟨_, .ok _, rfl, fun h => (synTake_inv s.crcTable s.synBuf b h).2, by simp⟩
  | reserved9 | reservedA | reservedB | reservedC | reservedD | reservedE => cases hr
  | frameRsp op st p ck => exact absurd rfl (hi op st p ck)

/-- What every instruction does to the state: the registers hold their values after it, the table is kept, and the log
grows at its end. -/
theorem exec_fields (i : Instr) (s : State) :
    ∃ t, exec i s = .next t ∧ t.crcAcc = accAfter s.crcTable s.crcAcc i ∧
      t.synBuf = bufAfter s.crcTable s.synBuf i ∧ t.crcTable = s.crcTable ∧ ∃ more, t.log = s.log ++ more := by
  by_cases hi : ∃ op st p ck, i = .frameRsp op st p ck
  · obtain ⟨op, st, p, ck, rfl⟩ := hi
    obtain ⟨hacc, htable, -, hlog⟩ := s.rxBytes_frame (responseFrame op st p ck)
    exact ⟨_, exec_frameRsp op st p ck s, hacc, rxBytes_synBuf s _, htable, hlog⟩
  · push Not at hi
    cases hr : refusedFor i with
    | some r =>
      obtain ⟨hacc, hbuf⟩ := writes_nothing_of_refusedFor_eq_some hr
      exact ⟨_, exec_of_refusedFor_eq_some hr s, (accAfter_of_writesAcc_eq_false _ _ hacc).symm,
        (bufAfter_of_writesBuf_eq_false _ _ hbuf).symm, rfl, _, State.record_log ..⟩
    | none =>
      obtain ⟨es, o, h, -, -⟩ := exec_of_refusedFor_eq_none hr hi s
      exact ⟨_, h, rfl, rfl, rfl, _, State.record_log ..⟩

/-- `exec_fields` of a next state at hand. -/
theorem exec_eq_next {i : Instr} {s t : State} (h : exec i s = .next t) :
    t.crcAcc = accAfter s.crcTable s.crcAcc i ∧ t.synBuf = bufAfter s.crcTable s.synBuf i ∧
      t.crcTable = s.crcTable ∧ ∃ more, t.log = s.log ++ more := by
  obtain ⟨t', h', hfields⟩ := exec_fields i s
  rw [h] at h'
  cases h'
  exact hfields

/-- Settles O51: the registers' values after an instruction that does not write them are their values before. -/
theorem onlyNamedInstructionsWrite : Obligations.OnlyNamedInstructionsWrite := by
  intro i s t h
  obtain ⟨hacc, hbuf, -, -⟩ := exec_eq_next h
  exact ⟨fun hw => hacc.trans (accAfter_of_writesAcc_eq_false _ _ hw),
    fun hw => hbuf.trans (bufAfter_of_writesBuf_eq_false _ _ hw)⟩

/-- Settles O52, by what every instruction keeps; a step with nothing issued keeps everything. -/
theorem tableAndPastAreKept : Obligations.TableAndPastAreKept := by
  intro s t h
  obtain rfl | ⟨rest, i, h⟩ := step_eq_next h
  · exact ⟨rfl, [], (List.append_nil _).symm⟩
  · obtain ⟨-, -, htable, hlog⟩ := exec_eq_next h
    exact ⟨htable, hlog⟩

/-- Settles O53: each register's value after an instruction is a function of the table and of that register alone. -/
theorem unitsDoNotInterfere : Obligations.UnitsDoNotInterfere := by
  intro i s s' t t' h h' htable
  obtain ⟨hacc, hbuf, -, -⟩ := exec_eq_next h
  obtain ⟨hacc', hbuf', -, -⟩ := exec_eq_next h'
  exact ⟨fun e => by rw [hacc, hacc', htable, e], fun e => by rw [hbuf, hbuf', htable, e]⟩

/-- The outcomes of arriving bytes are all ok. -/
theorem rxBytes_log_no_refusal (s : State) (bytes : ByteSeq) :
    ∃ more, (s.rxBytes bytes).log = s.log ++ more ∧ ∀ r, .outcome (.refuse r) ∉ more := by
  induction bytes generalizing s with
  | nil => exact ⟨[], (List.append_nil _).symm, by simp⟩
  | cons b bytes ih =>
    obtain ⟨more, hlog, hmore⟩ := ih (s.rxByte b)
    rw [State.rxByte_log, List.append_assoc] at hlog
    exact ⟨_, hlog, by simp [hmore]⟩

/-- Settles O54: the refusal of each failed precondition, and where none fails an outcome of another kind. -/
theorem refusalsAreExact : Obligations.RefusalsAreExact := by
  intro i s
  refine ⟨fun r hr => (exec_of_refusedFor_eq_some hr s).trans (refuse_eq s r), fun hr t r h => ?_⟩
  by_cases hi : ∃ op st p ck, i = .frameRsp op st p ck
  · obtain ⟨op, st, p, ck, rfl⟩ := hi
    obtain ⟨more, hlog, hmore⟩ := rxBytes_log_no_refusal s (responseFrame op st p ck)
    cases h
    rw [hlog, List.drop_left]
    exact hmore r
  · push Not at hi
    obtain ⟨es, o, heq, -, ho⟩ := exec_of_refusedFor_eq_none hr hi s
    rw [h] at heq
    cases heq
    rw [State.record_log, State.setBuf_log, State.setAcc_log, List.drop_left]
    simp [(ho r).symm]

/-! The invariant (10_state.md section 3, 41_framer.md R89, 43_synchronizer.md R116). -/

@[simp] theorem eventsOf_append (l m : List Observation) : eventsOf (l ++ m) = eventsOf l ++ eventsOf m :=
  List.filterMap_append

@[simp] theorem eventsOf_record (es : List Event) (o : OpOutcome) :
    eventsOf (es.map Observation.event ++ [.outcome o]) = es := by
  induction es with
  | nil => rfl
  | cons e es ih => exact congrArg (e :: ·) ih

/-- An operation keeps the invariant if it leaves `SYN.BUF` as it must be and emits only what it may. -/
theorem State.inv_record {s : State} {acc : Word} {buf : ByteSeq} {es : List Event} (o : OpOutcome) (hs : s.Inv)
    (hbuf : synInv buf = true) (hes : ∀ e ∈ es, EventOk s.crcTable e) :
    (((s.setAcc acc).setBuf buf).record es o).Inv := by
  refine ⟨hbuf, ?_⟩
  rw [State.record_log, eventsOf_append, eventsOf_record]
  intro e he
  exact (List.mem_append.mp he).elim (hs.2 e) (hes e)

theorem State.inv_rxByte {s : State} (b : Byte) (h : s.Inv) : (s.rxByte b).Inv :=
  have hsyn := synTake_inv s.crcTable s.synBuf b h.1
  State.inv_record (acc := s.crcAcc) _ h hsyn.1 hsyn.2

theorem State.inv_rxBytes {s : State} (bytes : ByteSeq) (h : s.Inv) : (s.rxBytes bytes).Inv := by
  induction bytes generalizing s with
  | nil => exact h
  | cons b bytes ih => exact ih (State.inv_rxByte b h)

/-- What every instruction but a response frame leaves in `SYN.BUF` meets its invariants. -/
theorem synInv_bufAfter (t : CrcTable) {buf : ByteSeq} (h : synInv buf = true) {i : Instr}
    (hi : ∀ op st p ck, i ≠ .frameRsp op st p ck) : synInv (bufAfter t buf i) = true := by
  cases i with
  | rxByte b => exact (synTake_inv t buf b h).1
  | synClear | reset => rfl
  | frameRsp op st p ck => exact absurd rfl (hi op st p ck)
  | crcInit | crcNib | crcByte | crcRead | crcSum | enc | val | frameCmd
  | reserved9 | reservedA | reservedB | reservedC | reservedD | reservedE => exact h

theorem exec_keeps_inv {i : Instr} {s t : State} (hs : s.Inv) (h : exec i s = .next t) : t.Inv := by
  by_cases hi : ∃ op st p ck, i = .frameRsp op st p ck
  · obtain ⟨op, st, p, ck, rfl⟩ := hi
    cases h
    exact State.inv_rxBytes _ hs
  · push Not at hi
    cases hr : refusedFor i with
    | some r =>
      rw [exec_of_refusedFor_eq_some hr s] at h
      cases h
      exact State.inv_record (acc := s.crcAcc) _ hs hs.1 (by simp)
    | none =>
      obtain ⟨es, o, heq, hes, -⟩ := exec_of_refusedFor_eq_none hr hi s
      rw [heq] at h
      cases h
      exact State.inv_record o hs (synInv_bufAfter _ hs.1 hi) (hes hs.1)

/-- Settles O48: taking an issue off the port touches nothing the invariant speaks of, and every instruction keeps
it. -/
theorem stepKeepsTheInvariant : Obligations.StepKeepsTheInvariant := by
  intro s t hs h
  obtain rfl | ⟨rest, i, h⟩ := step_eq_next h
  · exact hs
  · exact exec_keeps_inv (s := s.setPending rest) hs h

/-- Settles O49: the buffer is empty and nothing has been observed. -/
theorem resetMeetsTheInvariant : Obligations.ResetMeetsTheInvariant :=
  ⟨rfl, fun _ he => absurd he List.not_mem_nil⟩

/-- Settles O50, by how many bytes the buffer holds; with two or more, its length byte bounds it. -/
theorem synBufIsBounded : Obligations.SynBufIsBounded := by
  rintro s ⟨hbuf, -⟩
  match s.synBuf, hbuf with
  | [], _ => exact ⟨Nat.zero_le _, by rintro k ⟨⟩⟩
  | [d], _ => exact ⟨by simp, by rintro k ⟨⟩⟩
  | d :: n :: rest, hbuf =>
    simp only [synInv, Bool.and_eq_true, decide_eq_true_eq, Config.ovhRsp] at hbuf
    obtain ⟨-, hlt⟩ := hbuf
    have := n.isLt
    refine ⟨by simp only [List.length_cons]; omega, ?_⟩
    rintro k ⟨⟩
    simp only [synCnt, List.length_cons, Config.ovhRsp]
    omega

end Sys2Proof.Machine
end

section
/-! What `ENC` sends (41_framer.md). The frame it sends is the command frame of its opcode and payload; the guarantee
and the derived properties are then facts about that frame. -/
namespace Sys2Proof.Machine

/-- A frame that `ENC` adds to the log is the command frame of its operands, and the payload was one it takes. -/
theorem eq_commandFrame_of_tx_mem {opcode : Byte} {payload : Option ByteSeq} {s t : State} {f : ByteSeq}
    (h : exec (.enc opcode payload) s = .next t) (hf : .event (.tx f) ∈ t.log.drop s.log.length) :
    (payload.getD []).length ≤ 248 ∧ f = commandFrame s.crcTable opcode (payload.getD []) := by
  change sendCommand opcode (payload.getD []) s = .next t at h
  rcases Nat.lt_or_ge 248 (payload.getD []).length with hp | hp
  · rw [sendCommand_refused opcode _ s hp] at h
    cases h
    rw [State.record_log, List.drop_left] at hf
    simp at hf
  · rw [sendCommand_eq opcode _ s hp] at h
    cases h
    rw [State.record_log, List.drop_left] at hf
    exact ⟨hp, by simpa using hf⟩

/-- From offset `N + 3` on, only the checksum field of a command frame is left. -/
theorem commandFrame_getElem?_checksum (t : CrcTable) (op : Byte) (p : ByteSeq) (k : Nat) :
    (commandFrame t op p)[p.length + 3 + k]? =
      (be16Bytes (crcFold t Config.crcInit (commandCovered op p)))[k]? := by
  have hlen : (Config.delim :: commandCovered op p).length = p.length + 3 := by simp
  rw [← hlen, commandFrame, ← List.cons_append, List.getElem?_append_right (Nat.le_add_right _ _),
    Nat.add_sub_cancel_left]

/-- Settles O24: the frame sent is a command frame, and its last two bytes are the fold over what they cover. -/
theorem encGuarantee : Obligations.EncGuarantee := by
  intro opcode payload s t f h hf
  obtain ⟨hp, rfl⟩ := eq_commandFrame_of_tx_mem h hf
  generalize payload.getD [] = p at hp ⊢
  have hn : (BitVec.ofNat 8 p.length).toNat = p.length := byte_ofNat_toNat _ (by omega)
  let c := crcFold s.crcTable Config.crcInit (commandCovered opcode p)
  refine ⟨rfl, BitVec.ofNat 8 p.length, hi8 c, lo8 c, rfl, ?_⟩
  rw [hn, be16_hi8_lo8]
  exact ⟨commandFrame_length _ _ _, hp, commandFrame_getElem?_checksum _ _ _ 0,
    commandFrame_getElem?_checksum _ _ _ 1, checksum_commandFrame _ _ _⟩

/-- A command frame shows its opcode and its payload: the decoder reads them off it. -/
theorem commandFrame_injective {t : CrcTable} {op op' : Byte} {p p' : ByteSeq} (hp : p.length ≤ 248)
    (hp' : p'.length ≤ 248) (h : commandFrame t op p = commandFrame t op' p') : op = op' ∧ p = p' := by
  have hd := decodeCommandFrame_commandFrame t op p hp
  rw [h, decodeCommandFrame_commandFrame t op' p' hp'] at hd
  cases hd
  exact ⟨rfl, rfl⟩

/-- Settles O25: the two next states have one log, so one frame was sent. -/
theorem encIsInjective : Obligations.EncIsInjective := by
  intro opcode opcode' payload payload' s t hp hp' h h'
  have hsame := (sendCommand_eq opcode _ s hp).symm.trans (h.trans (h'.symm.trans (sendCommand_eq opcode' _ s hp')))
  injection hsame with hstate
  have hlog := congrArg State.log hstate
  simp only [State.record_log, List.append_cancel_left_eq, List.map_cons, List.map_nil, List.cons_append,
    List.nil_append, List.cons.injEq, Observation.event.injEq, Event.tx.injEq] at hlog
  exact commandFrame_injective hp hp' hlog.1

/-- Settles O26: a command frame opens with the delimiter, and is two bytes shorter than its length byte asks of a
response frame. -/
theorem encOutputNeverValidates : Obligations.EncOutputNeverValidates := by
  intro opcode payload s t f h hf
  obtain ⟨hp, rfl⟩ := eq_commandFrame_of_tx_mem h hf
  refine execVal_of_validate_eq_error (validate_lengthMismatch _ _ rfl ?_)
  rintro n ⟨⟩
  rw [commandFrame_length, byte_ofNat_toNat _ (by omega)]
  omega

/-- Settles O27: a command frame is sent as `ENC` sends it. -/
theorem frameCmdIsSent : Obligations.FrameCmdIsSent := fun opcode p s =>
  ⟨sendCommand_of_length_le opcode p s, sendCommand_of_lt_length opcode p s⟩

end Sys2Proof.Machine
end

section
/-! What arriving bytes do to the synchronizer (43_synchronizer.md section 4). Bytes of a gap are dropped, bytes that
complete nothing are collected, and the bytes of a shaped frame end in its delivery; a stream is made of these. -/
namespace Sys2Proof.Machine

/-- The state after bytes of which none completed a candidate: `SYN.BUF` holds `buf`, one ok is observed for each. -/
def State.collected (s : State) (buf : ByteSeq) (count : Nat) : State :=
  { s with synBuf := buf, log := s.log ++ List.replicate count (.outcome (.ok .none)) }

@[simp] theorem State.collected_crcAcc (s : State) (buf : ByteSeq) (k : Nat) :
    (s.collected buf k).crcAcc = s.crcAcc := rfl
@[simp] theorem State.collected_synBuf (s : State) (buf : ByteSeq) (k : Nat) : (s.collected buf k).synBuf = buf := rfl
@[simp] theorem State.collected_crcTable (s : State) (buf : ByteSeq) (k : Nat) :
    (s.collected buf k).crcTable = s.crcTable := rfl
@[simp] theorem State.collected_log (s : State) (buf : ByteSeq) (k : Nat) :
    (s.collected buf k).log = s.log ++ List.replicate k (.outcome (.ok .none)) := rfl

@[simp] theorem State.collected_zero (s : State) : s.collected s.synBuf 0 = s := by
  simp [State.collected]

@[simp] theorem State.collected_collected (s : State) (buf buf' : ByteSeq) (k k' : Nat) :
    (s.collected buf k).collected buf' k' = s.collected buf' (k + k') := by
  simp only [State.collected, List.append_assoc, ← List.replicate_add]

@[simp] theorem eventsOf_replicate_outcome (k : Nat) (o : OpOutcome) :
    eventsOf (List.replicate k (.outcome o)) = [] := by
  simp [eventsOf, Observation.event?]

theorem State.rxByte_of_synTake_eq {s : State} {b : Byte} {buf : ByteSeq} {es : List Event}
    (h : synTake s.crcTable s.synBuf b = (buf, es)) : s.rxByte b = (s.setBuf buf).record es (.ok .none) := by
  rw [State.rxByte, h]

theorem State.rxByte_of_collects {s : State} {b : Byte} {buf : ByteSeq}
    (h : synTake s.crcTable s.synBuf b = (buf, [])) : s.rxByte b = s.collected buf 1 :=
  State.rxByte_of_synTake_eq h

/-- A gap: between frames, bytes other than the delimiter are dropped (R112). -/
theorem State.rxBytes_of_gap {s : State} {bytes : ByteSeq} (hs : s.synBuf = []) (h : 0xFF#8 ∉ bytes) :
    s.rxBytes bytes = s.collected [] bytes.length := by
  induction bytes generalizing s with
  | nil => exact (hs ▸ s.collected_zero).symm
  | cons b bytes ih =>
    obtain ⟨hb, hbytes⟩ := not_or.mp (List.mem_cons.not.mp h)
    have hone : s.rxByte b = s.collected [] 1 :=
      State.rxByte_of_collects (by rw [hs, synTake_nil_eq, if_neg (Ne.symm hb)])
    rw [State.rxBytes_cons, hone, ih rfl hbytes, State.collected_collected, List.length_cons, Nat.add_comm]

/-- Once the length byte is there, bytes that do not complete the candidate are collected, whatever they are (R114). -/
theorem State.rxBytes_of_incomplete {s : State} {n : Byte} {bytes : ByteSeq} (h1 : s.synBuf[1]? = some n)
    (h : s.synBuf.length + bytes.length < n.toNat + 7) :
    s.rxBytes bytes = s.collected (s.synBuf ++ bytes) bytes.length := by
  induction bytes generalizing s with
  | nil => exact (by rw [List.append_nil]; exact s.collected_zero.symm)
  | cons b bytes ih =>
    rw [List.length_cons] at h
    have hone : s.rxByte b = s.collected (s.synBuf ++ [b]) 1 :=
      State.rxByte_of_collects (synTake_of_not_completes s.crcTable b h1 (by omega))
    have hlt : 1 < s.synBuf.length := (List.getElem?_eq_some_iff.mp h1).1
    rw [State.rxBytes_cons, hone, ih, State.collected_collected, State.collected_synBuf, List.append_assoc,
      List.length_cons, Nat.add_comm]
    · rfl
    · rw [State.collected_synBuf, List.getElem?_append_left hlt, h1]
    · rw [State.collected_synBuf, List.length_append, List.length_singleton]; omega

/-- Between frames, the delimiter and a length byte and bytes that complete nothing are all collected. -/
theorem State.rxBytes_of_opening {s : State} {n : Byte} {bytes : ByteSeq} (hs : s.synBuf = [])
    (h : bytes.length < n.toNat + 5) :
    s.rxBytes (0xFF#8 :: n :: bytes) = s.collected (0xFF#8 :: n :: bytes) (bytes.length + 2) := by
  have hdelim : s.rxByte 0xFF#8 = s.collected [0xFF#8] 1 :=
    State.rxByte_of_collects (by rw [hs, synTake_nil_eq, if_pos rfl])
  have hlen : (s.collected [0xFF#8] 1).rxByte n = s.collected [0xFF#8, n] 2 :=
    (State.rxByte_of_collects (synTake_len _ _ _)).trans (State.collected_collected ..)
  rw [State.rxBytes_cons, State.rxBytes_cons, hdelim, hlen, State.rxBytes_of_incomplete (n := n) rfl,
    State.collected_collected, Nat.add_comm]
  · rfl
  · rw [State.collected_synBuf]; simp only [List.length_cons, List.length_nil]; omega

/-- A shaped frame that arrives between frames is delivered at its last byte, with `VAL`'s result on it. -/
theorem State.rxBytes_of_shaped {s : State} {n : Byte} {f : ByteSeq} (hs : s.synBuf = [])
    (h0 : f[0]? = some 0xFF#8) (h1 : f[1]? = some n) (hlen : f.length = n.toNat + 7) :
    s.rxBytes f = (s.collected [] (f.length - 1)).record [.deliver f (validate s.crcTable f)] (.ok .none) := by
  match f, h0, h1, hlen with
  | d :: m :: rest, h0, h1, hlen =>
    obtain rfl : d = 0xFF#8 := Option.some.inj h0
    obtain rfl : m = n := Option.some.inj h1
    simp only [List.length_cons] at hlen
    obtain ⟨bytes, b, rfl⟩ : ∃ bytes b, rest = bytes ++ [b] :=
      rest.eq_nil_or_concat'.resolve_left (List.ne_nil_of_length_pos (by omega))
    rw [List.length_append, List.length_singleton] at hlen
    rw [← List.cons_append, ← List.cons_append, State.rxBytes_append, State.rxBytes_of_opening hs (by omega)]
    have hlast := synTake_of_completes s.crcTable (buf := 0xFF#8 :: m :: bytes) b rfl hlen
    have hpred : (0xFF#8 :: m :: bytes ++ [b]).length - 1 = bytes.length + 2 := by simp
    rw [hpred]
    exact State.rxByte_of_synTake_eq hlast

/-- A gap and a shaped frame that arrive between frames: the frame is delivered, no other event is observed, and the
buffer ends empty. -/
theorem State.rxBytes_of_gap_append_shaped {s : State} {gap f : ByteSeq} {n : Byte} (hs : s.synBuf = [])
    (hgap : 0xFF#8 ∉ gap) (h0 : f[0]? = some 0xFF#8) (h1 : f[1]? = some n) (hlen : f.length = n.toNat + 7) :
    (s.rxBytes (gap ++ f)).synBuf = [] ∧
      eventsOf (s.rxBytes (gap ++ f)).log = eventsOf s.log ++ [.deliver f (validate s.crcTable f)] := by
  rw [State.rxBytes_append, State.rxBytes_of_gap hs hgap, State.rxBytes_of_shaped rfl h0 h1 hlen]
  refine ⟨rfl, ?_⟩
  rw [State.record_log, eventsOf_append, eventsOf_record]
  simp

/-- The clean-stream law, over the pieces of the stream. -/
theorem State.rxBytes_of_cleanStream {s : State} {pieces : List (ByteSeq × ByteSeq)} {lastGap : ByteSeq}
    (hs : s.synBuf = [])
    (hpieces : ∀ p ∈ pieces, 0xFF#8 ∉ p.1 ∧ p.2[0]? = some 0xFF#8 ∧
      ∃ n : Byte, p.2[1]? = some n ∧ p.2.length = n.toNat + 7)
    (hlast : 0xFF#8 ∉ lastGap) :
    (s.rxBytes (pieces.flatMap (fun p => p.1 ++ p.2) ++ lastGap)).synBuf = [] ∧
      eventsOf (s.rxBytes (pieces.flatMap (fun p => p.1 ++ p.2) ++ lastGap)).log =
        eventsOf s.log ++ pieces.map (fun p => .deliver p.2 (validate s.crcTable p.2)) := by
  induction pieces generalizing s with
  | nil =>
    rw [List.flatMap_nil, List.nil_append, State.rxBytes_of_gap hs hlast]
    simp
  | cons p pieces ih =>
    obtain ⟨⟨hgap, h0, n, h1, hlen⟩, hrest⟩ := List.forall_mem_cons.mp hpieces
    obtain ⟨hbuf, hevents⟩ := State.rxBytes_of_gap_append_shaped hs hgap h0 h1 hlen
    obtain ⟨-, htable, -⟩ := s.rxBytes_frame (p.1 ++ p.2)
    rw [List.flatMap_cons, List.append_assoc, State.rxBytes_append]
    obtain ⟨hbuf', hevents'⟩ := ih hbuf hrest
    rw [hevents, htable, List.append_assoc] at hevents'
    exact ⟨hbuf', hevents'⟩

/-! The same, of instructions one after another. -/

/-- `RX.BYTE`s one after another are their bytes arriving (30_encoding.md R62). -/
theorem execAll_rxByteInstrs (bytes : ByteSeq) (s : State) :
    execAll (rxByteInstrs bytes) s = .next (s.rxBytes bytes) := by
  induction bytes generalizing s with
  | nil => rfl
  | cons b bytes ih => exact ih (s.rxByte b)

/-- A sequence of the declared length that opens with the delimiter can only fail the checksum. -/
theorem validate_of_shaped (t : CrcTable) {f : ByteSeq} {n : Byte} (h0 : f[0]? = some Config.delim)
    (h1 : f[1]? = some n) (hlen : f.length = n.toNat + 7) :
    validate t f = .error .crcMismatch ∨ ∃ v, validate t f = .ok v ∧ v.frame = f := by
  obtain ⟨op, st, p, ck, rfl, hp⟩ := exists_responseFrame f n h0 h1 hlen
  rw [validate_responseFrame t op st p ck (by omega)]
  by_cases hck : ck = crcFold t Config.crcInit (responseCovered op st p)
  · rw [if_pos hck]; exact .inr ⟨_, rfl, rfl⟩
  · rw [if_neg hck]; exact .inl rfl

/-- Settles O41: a delivered candidate is an event of `synTake` on a buffer that meets its invariants. -/
theorem deliveredCandidatesAreShaped : Obligations.DeliveredCandidatesAreShaped := by
  intro b s t f r hs h hf
  cases h
  rw [State.rxByte_log, List.drop_left] at hf
  have hmem : Event.deliver f r ∈ (synTake s.crcTable s.synBuf b).2 := by simpa using hf
  obtain ⟨h0, ⟨n, h1, hlen⟩, rfl⟩ := (synTake_inv s.crcTable s.synBuf b hs).2 _ hmem
  change f.length = n.toNat + 7 at hlen
  exact ⟨h0, ⟨n, h1, hlen⟩, by omega, by omega, validate_of_shaped s.crcTable h0 h1 hlen⟩

/-- Settles O42, by the law over the stream's pieces; arriving bytes never touch `CRC.ACC`. -/
theorem cleanStreamIsDelivered : Obligations.CleanStreamIsDelivered := by
  intro pieces lastGap s hs hpieces hlast
  obtain ⟨hbuf, hevents⟩ := State.rxBytes_of_cleanStream hs hpieces hlast
  exact ⟨_, execAll_rxByteInstrs _ s, hbuf, (s.rxBytes_frame _).1, hevents⟩

/-- Settles O43: the frame's own delimiter is taken as a length of 255, and what follows completes nothing. -/
theorem strayDelimiterSwallowsWhatFollows : Obligations.StrayDelimiterSwallowsWhatFollows := by
  intro bytes s hs hlen
  have hone : s.rxByte 0xFF#8 = s.collected [0xFF#8, 0xFF#8] 1 :=
    State.rxByte_of_collects (by rw [hs, synTake_len])
  have hall : s.rxBytes (0xFF#8 :: bytes) = s.collected (0xFF#8 :: 0xFF#8 :: bytes) (1 + bytes.length) := by
    rw [State.rxBytes_cons, hone, State.rxBytes_of_incomplete (n := 0xFF#8) rfl, State.collected_collected]
    · rfl
    · change 2 + bytes.length < 255 + 7; omega
  refine ⟨_, execAll_rxByteInstrs _ s, ?_⟩
  rw [hall]
  simp

/-- Settles O44: a response frame's bytes arrive one by one, and so do `RX.BYTE`s. -/
theorem frameRspIsItsBytesArriving : Obligations.FrameRspIsItsBytesArriving := fun op st p ck s =>
  ⟨_, exec_frameRsp op st p ck s, execAll_rxByteInstrs (responseFrame op st p ck) s⟩

/-- Settles O45: a response frame whose payload fits its length byte is shaped. -/
theorem frameRspIsDelivered : Obligations.FrameRspIsDelivered := by
  rintro op st p ck ⟨acc, buf, table, pending, log⟩ hs hp
  obtain rfl : buf = [] := hs
  have hlen := responseFrame_length op st p ck
  rw [exec_frameRsp, State.rxBytes_of_shaped (n := BitVec.ofNat 8 p.length) rfl rfl rfl, hlen]
  · rfl
  · rw [hlen, byte_ofNat_toNat _ hp]

end Sys2Proof.Machine
end

section
/-! The default table (40_crc.md R78, log entry 3): the nibble step is four bit-serial steps, and those are linear. -/
namespace Sys2Proof.Machine

/-- Settles O2: all sixteen entries are evaluated. -/
theorem resetTableIsMultiplesOfGenerator : Obligations.ResetTableIsMultiplesOfGenerator := by
  unfold Obligations.ResetTableIsMultiplesOfGenerator
  decide

/-- The word whose lowest bit is the one given. -/
def bitWord (d : Bool) : Word := if d then 1#16 else 0#16

/-- The generator where the bit shifted out is set. -/
def generatorWord (m : Bool) : Word := if m then 0x1021#16 else 0#16

/-- Shifting clears the lowest bit, so the incoming bit can be added as well as set. -/
theorem bitStep_eq_xor (c : Word) (d : Bool) : bitStep c d = c <<< 1 ^^^ bitWord d ^^^ generatorWord c.msb := by
  have hor : (c <<< 1) ||| bitWord d = c <<< 1 ^^^ bitWord d := by
    refine BitVec.eq_of_getLsbD_eq fun k _ => ?_
    cases d <;> cases k <;> simp [bitWord]
  rw [← hor]
  rfl

theorem bitWord_xor (d d' : Bool) : bitWord (d ^^ d') = bitWord d ^^^ bitWord d' := by
  cases d <;> cases d' <;> decide

theorem generatorWord_xor (m m' : Bool) : generatorWord (m ^^ m') = generatorWord m ^^^ generatorWord m' := by
  cases m <;> cases m' <;> decide

/-- The bit-serial step is linear over the running value and the incoming bit together. -/
theorem bitStep_xor (c c' : Word) (d d' : Bool) : bitStep (c ^^^ c') (d ^^ d') = bitStep c d ^^^ bitStep c' d' := by
  simp only [bitStep_eq_xor, bitWord_xor, generatorWord_xor, BitVec.msb_xor, BitVec.shiftLeft_xor_distrib]
  ac_rfl

theorem generatorWord_getLsbD_of_lt (m : Bool) {k : Nat} (hlow : 12 < k) (hhigh : k < 16) :
    (generatorWord m).getLsbD k = false := by
  cases m with
  | false => exact BitVec.getLsbD_zero
  | true => interval_cases k <;> rfl

theorem bitWord_getLsbD_succ (d : Bool) (k : Nat) : (bitWord d).getLsbD (k + 1) = false := by
  cases d <;> simp [bitWord]

/-- The generator's bits above bit 12 are zero, so the top bits of the running value move up as they are. -/
theorem bitStep_getLsbD_succ (c : Word) (d : Bool) {k : Nat} (hlow : 12 ≤ k) (hhigh : k < 15) :
    (bitStep c d).getLsbD (k + 1) = c.getLsbD k := by
  rw [bitStep_eq_xor, BitVec.getLsbD_xor, BitVec.getLsbD_xor, bitWord_getLsbD_succ,
    generatorWord_getLsbD_of_lt _ (by omega) (by omega)]
  simp; omega

theorem nibble_setWidth_eq (n : Nibble) :
    n.setWidth 16 = bitWord (n.getLsbD 3) <<< 3 ^^^ bitWord (n.getLsbD 2) <<< 2 ^^^ bitWord (n.getLsbD 1) <<< 1 ^^^
      bitWord (n.getLsbD 0) := by
  revert n; decide

theorem defaultTableEntry_eq (i : Nibble) :
    tableEntry Config.defaultCrcTable i = generatorWord (i.getLsbD 0) ^^^ generatorWord (i.getLsbD 1) <<< 1 ^^^
      generatorWord (i.getLsbD 2) <<< 2 ^^^ generatorWord (i.getLsbD 3) <<< 3 := by
  revert i; decide

/-- The nibble step on words of 16 bits: what R71 drops at the end can be dropped at once. -/
theorem crcStep_eq_xor (t : CrcTable) (c : Word) (n : Nibble) :
    crcStep t c n = c <<< 4 ^^^ n.setWidth 16 ^^^ tableEntry t (topNibble c) := by
  refine BitVec.eq_of_getLsbD_eq fun k hk => ?_
  rw [crcStep_eq]
  by_cases h4 : k < 4
  · simp [h4, hk]
  · have hn : n.getLsbD k = false := BitVec.getLsbD_of_ge n k (not_lt.mp h4)
    simp [h4, hk, hn]

theorem topNibble_getLsbD (c : Word) {k : Nat} (hk : k < 4) : (topNibble c).getLsbD k = c.getLsbD (12 + k) := by
  simp [topNibble_eq, hk]

theorem bitStep_msb (c : Word) (d : Bool) : (bitStep c d).msb = c.getLsbD 14 := by
  rw [BitVec.msb_eq_getLsbD_last]
  exact bitStep_getLsbD_succ c d (by decide) (by decide)

/-- Settles O19: both sides are the running value shifted by four, the nibble, and the generator shifted once for each
step that comes after the one that shifts a set bit out. -/
theorem stepIsFourBitSteps : Obligations.StepIsFourBitSteps := by
  intro c n
  have h14 (c : Word) (d : Bool) : (bitStep c d).getLsbD 14 = c.getLsbD 13 :=
    bitStep_getLsbD_succ c d (by decide) (by decide)
  have h13 (c : Word) (d : Bool) : (bitStep c d).getLsbD 13 = c.getLsbD 12 :=
    bitStep_getLsbD_succ c d (by decide) (by decide)
  rw [crcStep_eq_xor, nibble_setWidth_eq, defaultTableEntry_eq, topNibble_getLsbD c (by decide),
    topNibble_getLsbD c (by decide), topNibble_getLsbD c (by decide), topNibble_getLsbD c (by decide),
    bitStep_eq_xor (bitStep (bitStep (bitStep c _) _) _), bitStep_msb, h14, h13,
    bitStep_eq_xor (bitStep (bitStep c _) _), bitStep_msb, h14,
    bitStep_eq_xor (bitStep c _), bitStep_msb, bitStep_eq_xor c, BitVec.msb_eq_getLsbD_last]
  simp only [BitVec.shiftLeft_xor_distrib, ← BitVec.shiftLeft_add, Nat.reduceAdd, Nat.reduceSub]
  ac_rfl

/-! Linearity of the fold. -/

theorem crcStep_xor (c c' : Word) (n n' : Nibble) :
    crcStep Config.defaultCrcTable (c ^^^ c') (n ^^^ n') =
      crcStep Config.defaultCrcTable c n ^^^ crcStep Config.defaultCrcTable c' n' := by
  simp only [stepIsFourBitSteps _ _, BitVec.getLsbD_xor, bitStep_xor]

theorem hi4_xor (b b' : Byte) : hi4 (b ^^^ b') = hi4 b ^^^ hi4 b' := BitVec.extractLsb'_xor ..

theorem lo4_xor (b b' : Byte) : lo4 (b ^^^ b') = lo4 b ^^^ lo4 b' := BitVec.extractLsb'_xor ..

theorem crcFold_xor {a b : ByteSeq} (h : a.length = b.length) (c c' : Word) :
    crcFold Config.defaultCrcTable c a ^^^ crcFold Config.defaultCrcTable c' b =
      crcFold Config.defaultCrcTable (c ^^^ c') (List.zipWith (· ^^^ ·) a b) := by
  induction a generalizing b c c' with
  | nil =>
    obtain rfl := List.length_eq_zero_iff.mp h.symm
    rfl
  | cons x a ih =>
    obtain ⟨y, b, rfl⟩ := List.exists_cons_of_length_eq_add_one h.symm
    rw [List.zipWith_cons_cons, crcFold_cons, crcFold_cons, crcFold_cons, ih (Nat.succ.inj h)]
    simp only [crcByteStep, hi4_xor, lo4_xor, crcStep_xor]

/-- Settles O20, by the fold's linearity: the two starting values cancel. -/
theorem checksumIsLinear : Obligations.ChecksumIsLinear := fun _ _ h =>
  (crcFold_xor h _ _).trans (by rw [BitVec.xor_self])

/-! Bursts. A burst shorter than the running value is never reduced: once it has been shifted in, its bits stand in the
running value as they are, and the steps after it cannot turn a nonzero value into zero. -/

/-- The bits of a byte sequence as one message (`messageBit`), first bit first. -/
def messageBits (s : ByteSeq) : List Bool := (List.range (s.length * 8)).map (messageBit s)

theorem getElem?_messageBits_eq_some {s : ByteSeq} {j : Nat} {d : Bool} (h : (messageBits s)[j]? = some d) :
    messageBit s j = d := by
  obtain ⟨_, rfl⟩ := List.getElem?_eq_some_iff.mp h
  simp [messageBits]

/-- A bit beyond the end of the message is zero. -/
theorem lt_of_messageBit {s : ByteSeq} {j : Nat} (h : messageBit s j = true) : j < s.length * 8 := by
  by_contra hj
  rw [messageBit, List.getD_eq_default _ _ (by omega)] at h
  simp at h

theorem mem_messageBits {s : ByteSeq} {j : Nat} (h : messageBit s j = true) : true ∈ messageBits s :=
  List.mem_map.mpr ⟨j, List.mem_range.mpr (lt_of_messageBit h), h⟩

theorem messageBit_cons_of_lt (b : Byte) (s : ByteSeq) {j : Nat} (h : j < 8) :
    messageBit (b :: s) j = b.getLsbD (7 - j) := by
  rw [messageBit, Nat.div_eq_of_lt h, Nat.mod_eq_of_lt h, List.getD_cons_zero]

theorem messageBit_cons_add (b : Byte) (s : ByteSeq) (j : Nat) : messageBit (b :: s) (8 + j) = messageBit s j := by
  rw [messageBit, Nat.add_div_left j (by decide), Nat.add_mod_left, List.getD_cons_succ, messageBit]

/-- The bits of a byte, the most significant first. -/
def byteBits (b : Byte) : List Bool := (List.range 8).map fun j => b.getLsbD (7 - j)

theorem messageBits_cons (b : Byte) (s : ByteSeq) : messageBits (b :: s) = byteBits b ++ messageBits s := by
  rw [messageBits, List.length_cons, Nat.succ_mul, Nat.add_comm, List.range_add, List.map_append, List.map_map]
  have hfirst : (List.range 8).map (messageBit (b :: s)) = byteBits b :=
    List.map_congr_left fun j hj => messageBit_cons_of_lt b s (List.mem_range.mp hj)
  have hrest : (List.range (s.length * 8)).map (messageBit (b :: s) ∘ (8 + ·)) = messageBits s :=
    List.map_congr_left fun j _ => messageBit_cons_add b s j
  rw [hfirst, hrest]

/-- A byte is folded in as its eight bits. -/
theorem crcByteStep_eq_foldl_bitStep (c : Word) (b : Byte) :
    crcByteStep Config.defaultCrcTable c b = (byteBits b).foldl bitStep c := by
  rw [crcByteStep, stepIsFourBitSteps, stepIsFourBitSteps]
  simp [hi4, lo4, byteBits, List.range_succ]

/-- The fold over bytes is the bit-serial fold over their bits. -/
theorem crcFold_eq_foldl_bitStep (c : Word) (s : ByteSeq) :
    crcFold Config.defaultCrcTable c s = (messageBits s).foldl bitStep c := by
  induction s generalizing c with
  | nil => rfl
  | cons b s ih => rw [crcFold_cons, ih, messageBits_cons, List.foldl_append, crcByteStep_eq_foldl_bitStep]

theorem messageBit_zipWith_xor {a b : ByteSeq} (h : a.length = b.length) (j : Nat) :
    messageBit (List.zipWith (· ^^^ ·) a b) j = (messageBit a j ^^ messageBit b j) := by
  have hget : (List.zipWith (· ^^^ ·) a b).getD (j / 8) 0 = a.getD (j / 8) 0 ^^^ b.getD (j / 8) 0 := by
    rcases Nat.lt_or_ge (j / 8) a.length with hj | hj
    · have hj' : j / 8 < b.length := h ▸ hj
      simp [hj, hj']
    · have hj' : b.length ≤ j / 8 := h ▸ hj
      simp [hj, hj']
  rw [messageBit, hget, BitVec.getLsbD_xor, messageBit, messageBit]

theorem exists_messageBit_ne {a b : ByteSeq} (hlen : a.length = b.length) (h : a ≠ b) :
    ∃ j, messageBit a j ≠ messageBit b j := by
  by_contra hall
  push Not at hall
  refine h (List.ext_getElem hlen fun i ha hb => BitVec.eq_of_getLsbD_eq fun m hm => ?_)
  have hbit := hall (i * 8 + (7 - m))
  have hdiv : (i * 8 + (7 - m)) / 8 = i := by omega
  have hmod : 7 - (i * 8 + (7 - m)) % 8 = m := by omega
  rwa [messageBit, messageBit, hdiv, hmod, List.getD_eq_getElem _ _ ha, List.getD_eq_getElem _ _ hb] at hbit

/-- While the top bit is clear the running value is shifted and nothing is reduced. -/
theorem bitStep_toNat_of_lt {c : Word} (h : c.toNat < 2 ^ 15) (d : Bool) :
    (bitStep c d).toNat = 2 * c.toNat + d.toNat := by
  have hmsb : c.msb = false := BitVec.msb_eq_false_iff_two_mul_lt.mpr (by omega)
  have hd : (if d then 1#16 else 0#16).toNat = d.toNat := by cases d <;> rfl
  have hor := Nat.two_pow_add_eq_or_of_lt (i := 1) (b := d.toNat) (by cases d <;> decide) c.toNat
  rw [bitStep, hmsb, if_neg Bool.false_ne_true, BitVec.xor_zero, BitVec.toNat_or, BitVec.toNat_shiftLeft, hd,
    Nat.shiftLeft_eq, Nat.mod_eq_of_lt (by omega), Nat.mul_comm, ← hor, pow_one]

/-- A zero bit does not turn a nonzero running value into zero: the generator's lowest bit is set. -/
theorem bitStep_false_ne_zero {c : Word} (hc : c ≠ 0) : bitStep c false ≠ 0 := by
  intro hzero
  have hlow : (bitStep c false).getLsbD 0 = c.msb := by
    rw [bitStep_eq_xor]
    cases c.msb <;> simp [bitWord, generatorWord]
  rw [hzero] at hlow
  have hlt : c.toNat < 2 ^ 15 := by
    have := BitVec.msb_eq_false_iff_two_mul_lt.mp (hlow.symm.trans rfl)
    omega
  have hnat := bitStep_toNat_of_lt hlt false
  rw [hzero] at hnat
  exact hc (BitVec.eq_of_toNat_eq (by simpa using hnat))

/-- Inside the burst, `j` bits of which have been shifted in, and after it: the running value stays nonzero. -/
theorem foldl_bitStep_ne_zero {l : List Bool} {c : Word} {j : Nat} (hc : c ≠ 0) (hlt : c.toNat < 2 ^ j) (hj : j ≤ 16)
    (hl : ∀ i, l[i]? = some true → i + j < 16) : l.foldl bitStep c ≠ 0 := by
  induction l generalizing c j with
  | nil => exact hc
  | cons d l ih =>
    have hrest (i : Nat) (hi : l[i]? = some true) : i + 1 + j < 16 := hl (i + 1) hi
    rcases hj.lt_or_eq with hj | rfl
    · have hstep := bitStep_toNat_of_lt (hlt.trans_le (Nat.pow_le_pow_right (by decide) (Nat.le_of_lt_succ hj))) d
      have hd : d.toNat ≤ 1 := Bool.toNat_le d
      refine ih (j := j + 1) ?_ (by rw [hstep, Nat.pow_succ]; omega) hj fun i hi => by have := hrest i hi; omega
      intro hzero
      rw [hzero] at hstep
      exact hc (BitVec.eq_of_toNat_eq (by simp at hstep ⊢; omega))
    · cases d with
      | true => exact absurd (hl 0 rfl) (by decide)
      | false => exact ih (bitStep_false_ne_zero hc) (BitVec.isLt _) hj fun i hi => by have := hrest i hi; omega

/-- Before the burst the running value stays zero; its first set bit makes it one. -/
theorem foldl_bitStep_zero_ne_zero {l : List Bool} {k : Nat} (hmem : true ∈ l)
    (hl : ∀ i, l[i]? = some true → k ≤ i ∧ i < k + 16) : l.foldl bitStep 0 ≠ 0 := by
  induction l generalizing k with
  | nil => cases hmem
  | cons d l ih =>
    have hrest (i : Nat) (hi : l[i]? = some true) : k ≤ i + 1 ∧ i + 1 < k + 16 := hl (i + 1) hi
    cases d with
    | true =>
      have hk : k = 0 := Nat.le_zero.mp (hl 0 rfl).1
      exact foldl_bitStep_ne_zero (c := bitStep 0 true) (j := 1) (by decide) (by decide) (by decide)
        fun i hi => by have := hrest i hi; omega
    | false =>
      have hmem : true ∈ l := by simpa using hmem
      exact ih (k := k - 1) hmem fun i hi => by have := hrest i hi; omega

/-- Settles O21: the two checksums differ by the fold, from zero, of the sequences' difference, whose set bits are the
burst. -/
theorem burstsUpToSixteenBitsAreDetected : Obligations.BurstsUpToSixteenBitsAreDetected := by
  intro a b k hlen hne hburst heq
  obtain ⟨j, hj⟩ := exists_messageBit_ne hlen hne
  have hzero := checksumIsLinear a b hlen
  rw [heq, BitVec.xor_self, crcFold_eq_foldl_bitStep] at hzero
  have hbit : messageBit (List.zipWith (· ^^^ ·) a b) j = true := by
    rw [messageBit_zipWith_xor hlen]; exact bne_iff_ne.mpr hj
  refine foldl_bitStep_zero_ne_zero (mem_messageBits hbit) (k := k) (fun i hi => hburst i ?_) hzero.symm
  have hi := getElem?_messageBits_eq_some hi
  rw [messageBit_zipWith_xor hlen] at hi
  exact bne_iff_ne.mp hi

/-- Settles O22: both checksums are evaluated. -/
theorem thereIsNoConstantResidue : Obligations.ThereIsNoConstantResidue := by
  unfold Obligations.ThereIsNoConstantResidue
  decide

end Sys2Proof.Machine
end

section
/-! The streaming interface agrees with `checksum` (40_crc.md R77 (iv)): of the instructions that may stand between,
each folds its `CRC.BYTE` operand, if it has one, into `CRC.ACC`, and does nothing else to it. -/
namespace Sys2Proof.Machine

theorem accAfter_eq_crcFold (t : CrcTable) (acc : Word) {i : Instr}
    (h : i ≠ .crcInit ∧ i ≠ .reset ∧ ∀ m, i ≠ .crcNib m) : accAfter t acc i = crcFold t acc i.crcByteOperand := by
  obtain ⟨hinit, hreset, hnib⟩ := h
  cases i with
  | crcInit => exact absurd rfl hinit
  | reset => exact absurd rfl hreset
  | crcNib m => exact absurd rfl (hnib m)
  | crcByte | crcRead | crcSum | enc | val | rxByte | synClear | frameCmd | frameRsp
  | reserved9 | reservedA | reservedB | reservedC | reservedD | reservedE => rfl

theorem execAll_cons_of_exec {i : Instr} {s u : State} (h : exec i s = .next u) (ops : List Instr) :
    execAll (i :: ops) s = execAll ops u := by
  simp only [execAll, h]

theorem execAll_streaming {ops : List Instr} (h : ∀ i ∈ ops, i ≠ .crcInit ∧ i ≠ .reset ∧ ∀ m, i ≠ .crcNib m)
    (s : State) :
    ∃ t, execAll ops s = .next t ∧ t.crcAcc = crcFold s.crcTable s.crcAcc (ops.flatMap Instr.crcByteOperand) := by
  induction ops generalizing s with
  | nil => exact ⟨s, rfl, rfl⟩
  | cons i ops ih =>
    obtain ⟨hi, hops⟩ := List.forall_mem_cons.mp h
    obtain ⟨u, hu, hacc, -, htable, -⟩ := exec_fields i s
    obtain ⟨t, ht, hfold⟩ := ih hops u
    refine ⟨t, (execAll_cons_of_exec hu ops).trans ht, ?_⟩
    rw [hfold, htable, hacc, accAfter_eq_crcFold _ _ hi, List.flatMap_cons, crcFold_append]

/-- Settles O18: the bytes streamed are the range's, folded from the same initial value. -/
theorem streamingAgreesWithChecksum : Obligations.StreamingAgreesWithChecksum := by
  intro ops s bytes off n hin hops hbytes
  obtain ⟨t, ht, hacc⟩ := execAll_streaming hops ((s.setAcc Config.crcInit).record [] (.ok .none))
  rw [hbytes] at hacc
  exact ⟨t, t.crcAcc, ht, (if_pos hin).trans (congrArg some hacc.symm), succeed_nil_eq t _⟩

end Sys2Proof.Machine
end

section
/-! The validator's laws (42_deframer.md sections 1 and 2). What `VAL` accepts is a response frame with the right
checksum; each law says what becomes of such a frame. -/
namespace Sys2Proof.Machine

/-- What `VAL` accepts (42_deframer.md R99). -/
theorem exists_responseFrame_of_validate_eq_ok {t : CrcTable} {f : ByteSeq} {v : ValidatedFrame}
    (h : validate t f = .ok v) :
    ∃ op st p, f = responseFrame op st p (crcFold t Config.crcInit (responseCovered op st p)) ∧ p.length ≤ 255 ∧
      v.frame = f ∧ v.n = BitVec.ofNat 8 p.length := by
  obtain ⟨-, hv⟩ | ⟨-, -, hv⟩ | ⟨op, st, p, ck, rfl, hp, hv⟩ := validate_cases t f
  · rw [hv] at h; cases h
  · rw [hv] at h; cases h
  · by_cases hck : ck = crcFold t Config.crcInit (responseCovered op st p)
    · rw [hv, if_pos hck] at h
      cases h
      exact ⟨op, st, p, by rw [hck], hp, rfl, rfl⟩
    · rw [hv, if_neg hck] at h; cases h

/-- What `VAL` accepts has passed checks (a) and (b). -/
theorem shaped_of_validate_eq_ok {t : CrcTable} {f : ByteSeq} {v : ValidatedFrame} (h : validate t f = .ok v) :
    f[0]? = some 0xFF#8 ∧ f[1]? = some v.n ∧ f.length = v.n.toNat + 7 := by
  obtain ⟨op, st, p, rfl, hp, -, hn⟩ := exists_responseFrame_of_validate_eq_ok h
  rw [hn, byte_ofNat_toNat _ hp]
  exact ⟨rfl, rfl, responseFrame_length ..⟩

/-- Settles O32: the outcome recorded is `VAL`'s result, and what `VAL` accepts is as long as its length byte says. -/
theorem valOkOnlyWithinLengths : Obligations.ValOkOnlyWithinLengths := by
  intro f s t v h hlog
  have hv : validate s.crcTable f = .ok v := by
    cases hr : validate s.crcTable f with
    | ok w =>
      cases (execVal_of_validate_eq_ok hr).symm.trans h
      simpa using hlog
    | error e =>
      cases (execVal_of_validate_eq_error hr).symm.trans h
      simp at hlog
  obtain ⟨op, st, p, -, -, hframe, -⟩ := exists_responseFrame_of_validate_eq_ok hv
  obtain ⟨-, -, hlen⟩ := shaped_of_validate_eq_ok hv
  exact ⟨by omega, by omega, hframe⟩

/-- Settles O33: a response frame whose checksum is right is accepted with its fields. -/
theorem responseRoundTrip : Obligations.ResponseRoundTrip := fun op st d _ hd =>
  execVal_of_validate_eq_ok ((validate_responseFrame _ op st d _ hd).trans (if_pos rfl))

/-! The mutation laws (90_conflicts.md C4). -/

/-- Settles O35: the delimiter and the length byte, where it is still there, are as they were, and the length is
not. -/
theorem changedLengthIsDetected : Obligations.ChangedLengthIsDetected := by
  intro f v s hv
  obtain ⟨h0, h1, hlen⟩ := shaped_of_validate_eq_ok hv
  constructor
  · intro x hx
    have hpos := List.length_pos_of_ne_nil hx
    refine execVal_of_validate_eq_error (validate_lengthMismatch _ _ ?_ fun n hn => ?_)
    · rw [List.getElem?_append_left (by omega), h0]
    · rw [List.getElem?_append_left (by omega), h1] at hn
      cases hn
      rw [List.length_append]
      omega
  · intro j hj hlt
    refine execVal_of_validate_eq_error (validate_lengthMismatch _ _ ?_ fun n hn => ?_)
    · rw [List.getElem?_take_of_lt hj, h0]
    · have h1j : 1 < j := by
        by_contra hle
        rw [List.getElem?_take_eq_none (not_lt.mp hle)] at hn
        cases hn
      rw [List.getElem?_take_of_lt h1j, h1] at hn
      cases hn
      rw [List.length_take]
      omega

/-- One changed byte is a burst of at most eight bits, so with the default table it changes the checksum. -/
theorem crcFold_set_ne {s : ByteSeq} {k : Nat} {b : Byte} (hk : k < s.length) (hb : s[k]? ≠ some b) :
    crcFold Config.defaultCrcTable Config.crcInit s ≠ crcFold Config.defaultCrcTable Config.crcInit (s.set k b) := by
  have hne : s ≠ s.set k b := fun h => hb (by rw [h, List.getElem?_set_self hk])
  refine burstsUpToSixteenBitsAreDetected s (s.set k b) (k * 8) List.length_set.symm hne fun j hj => ?_
  have hdiv : k = j / 8 := by
    by_contra hother
    exact hj (by rw [messageBit, messageBit, List.getD_eq_getElem?_getD, List.getD_eq_getElem?_getD,
      List.getElem?_set_ne hother])
  omega

/-- A response frame is what stands before its checksum field, and that field. -/
theorem responseFrame_eq_append (op : Byte) (st : Word) (p : ByteSeq) (ck : Word) :
    responseFrame op st p ck = (Config.delim :: responseCovered op st p) ++ be16Bytes ck := rfl

theorem be16Bytes_injective {v w : Word} (h : be16Bytes v = be16Bytes w) : v = w := by
  simp only [be16Bytes, List.cons.injEq, and_true] at h
  rw [← be16_hi8_lo8 v, ← be16_hi8_lo8 w, h.1, h.2]

/-- A changed byte of a frame's covered bytes or checksum field leaves a response frame of the same payload length, in
which one of the two is as it was and the other is not. -/
theorem responseFrame_set {op : Byte} {st : Word} {p : ByteSeq} {ck : Word} {k : Nat} {b : Byte} (h2 : 2 ≤ k)
    (hp : p.length ≤ 255) (hk : k < p.length + 7) (hb : (responseFrame op st p ck)[k]? ≠ some b) :
    ∃ op' st' p' ck', (responseFrame op st p ck).set k b = responseFrame op' st' p' ck' ∧ p'.length = p.length ∧
      ((k < p.length + 5 ∧ ck' = ck ∧ responseCovered op' st' p' = (responseCovered op st p).set (k - 1) b ∧
          (responseCovered op st p)[k - 1]? ≠ some b) ∨
        (p.length + 5 ≤ k ∧ ck' ≠ ck ∧ responseCovered op' st' p' = responseCovered op st p)) := by
  have hn := byte_ofNat_toNat _ hp
  obtain ⟨op', st', p', ck', hf, hp'⟩ := exists_responseFrame ((responseFrame op st p ck).set k b)
    (BitVec.ofNat 8 p.length)
    (List.getElem?_set_ne (by omega)) (List.getElem?_set_ne (by omega))
    (by rw [List.length_set, responseFrame_length, hn])
  rw [hn] at hp'
  refine ⟨op', st', p', ck', hf, hp', ?_⟩
  have hlen : (Config.delim :: responseCovered op st p).length = p.length + 5 := by simp
  have hlen' : (Config.delim :: responseCovered op' st' p').length = p.length + 5 := by simp [hp']
  rw [responseFrame_eq_append, responseFrame_eq_append, List.set_append, hlen] at hf
  rw [responseFrame_eq_append] at hb
  rcases Nat.lt_or_ge k (p.length + 5) with hlt | hge
  · obtain ⟨k, rfl⟩ := Nat.exists_eq_add_of_le' (Nat.le_of_succ_le h2)
    rw [if_pos hlt] at hf
    obtain ⟨hcov, hck⟩ := List.append_inj hf (by rw [List.length_set, hlen, hlen'])
    rw [List.getElem?_append_left (hlen ▸ hlt)] at hb
    exact .inl ⟨hlt, (be16Bytes_injective hck).symm, (List.cons.inj hcov).2.symm, hb⟩
  · rw [if_neg (not_lt.mpr hge)] at hf
    obtain ⟨hcov, hck⟩ := List.append_inj hf (by rw [hlen, hlen'])
    rw [List.getElem?_append_right (hlen.trans_le hge), hlen] at hb
    refine .inr ⟨hge, ?_, (List.cons.inj hcov).2.symm⟩
    rintro rfl
    refine hb ?_
    rw [← hck, List.getElem?_set_self]
    change k - (p.length + 5) < 2
    omega

/-- Settles O34, by the byte's place: the delimiter, the length byte, or a byte that the checksum covers or is. -/
theorem oneChangedByteIsDetected : Obligations.OneChangedByteIsDetected := by
  intro f v k b s hv hk hb
  obtain ⟨h0, h1, hlen⟩ := shaped_of_validate_eq_ok hv
  refine ⟨?_, ?_, fun h2 htable => ?_⟩
  · rintro rfl
    refine execVal_of_validate_eq_error (validate_badDelimiter _ _ ?_)
    rw [List.getElem?_set_self hk, ← h0]
    exact hb.symm
  · rintro rfl
    refine execVal_of_validate_eq_error (validate_lengthMismatch _ _ ?_ fun n hn => ?_)
    · rw [List.getElem?_set_ne Nat.one_ne_zero, h0]
    · rw [List.getElem?_set_self hk] at hn
      cases hn
      rw [List.length_set, hlen]
      intro hsame
      exact hb (by rw [h1, BitVec.eq_of_toNat_eq (Nat.add_right_cancel hsame)])
  · obtain ⟨op, st, p, rfl, hp, -, hn⟩ := exists_responseFrame_of_validate_eq_ok hv
    rw [hn, byte_ofNat_toNat _ hp] at hlen htable
    obtain ⟨op', st', p', ck', hf, hp', hparts⟩ := responseFrame_set h2 hp (hk.trans_eq hlen) hb
    refine execVal_of_validate_eq_error ?_
    rw [hf, validate_responseFrame _ _ _ _ _ (hp'.trans_le hp), if_neg]
    obtain ⟨hlt, rfl, hcov, hbyte⟩ | ⟨-, hck, hcov⟩ := hparts
    · have hdefault : s.crcTable = Config.defaultCrcTable := htable.resolve_right (not_le.mpr hlt)
      rw [hcov, hdefault]
      exact crcFold_set_ne (by rw [responseCovered_length]; omega) hbyte
    · rw [hcov]; exact hck

end Sys2Proof.Machine
end

section
/-! The power value (45_environment.md R135). Rounding stays within one half whatever the tie rule, and that alone
decides where the clamp takes over. -/
namespace Sys2Proof.Machine

/-- The integer below, if it is at most one half away, or the one above, if that is: a tie allows both. -/
theorem roundNat_cases (tie : TieRule) (x : ℚ) :
    (roundNat tie x = ⌊x⌋.toNat ∧ x - (⌊x⌋.toNat : ℚ) ≤ 1 / 2) ∨
      (roundNat tie x = ⌊x⌋.toNat + 1 ∧ 1 / 2 ≤ x - (⌊x⌋.toNat : ℚ)) := by
  unfold roundNat
  dsimp only
  generalize ⌊x⌋.toNat = low
  split_ifs with hbelow habove heven
  · exact .inl ⟨rfl, hbelow.le⟩
  · exact .inr ⟨rfl, habove.le⟩
  · cases tie with
    | up => exact .inr ⟨rfl, not_lt.mp hbelow⟩
    | down | even => exact .inl ⟨rfl, not_lt.mp habove⟩
  · cases tie with
    | up | even => exact .inr ⟨rfl, not_lt.mp hbelow⟩
    | down => exact .inl ⟨rfl, not_lt.mp habove⟩

/-- `roundNat` answers a nearest integer, whichever of two it takes at a tie. -/
theorem abs_roundNat_sub_le (tie : TieRule) {x : ℚ} (hx : 0 ≤ x) : |(roundNat tie x : ℚ) - x| ≤ 1 / 2 := by
  have hfloor : ((⌊x⌋.toNat : ℕ) : ℚ) = (⌊x⌋ : ℚ) := by
    exact_mod_cast Int.toNat_of_nonneg (Int.floor_nonneg.mpr hx)
  have hlow : (⌊x⌋.toNat : ℚ) ≤ x := hfloor.trans_le (Int.floor_le x)
  have hhigh : x < (⌊x⌋.toNat : ℚ) + 1 := by rw [hfloor]; exact Int.lt_floor_add_one x
  rw [abs_le]
  obtain ⟨heq, hrest⟩ | ⟨heq, hrest⟩ := roundNat_cases tie x
  · rw [heq]; constructor <;> linarith
  · rw [heq, Nat.cast_add_one]; constructor <;> linarith

theorem roundNat_bounds (tie : TieRule) {x : ℚ} (hx : 0 ≤ x) :
    x - 1 / 2 ≤ (roundNat tie x : ℚ) ∧ (roundNat tie x : ℚ) ≤ x + 1 / 2 := by
  obtain ⟨hlow, hhigh⟩ := abs_le.mp (abs_roundNat_sub_le tie hx)
  constructor <;> linarith

/-- Up to 2700 nothing is clamped. -/
theorem powerOf_of_le (tie : TieRule) {x : ℚ} (h : |x * 100| ≤ 2700) : powerOf tie x = roundNat tie |x * 100| := by
  obtain ⟨-, hhigh⟩ := roundNat_bounds tie (abs_nonneg (x * 100))
  have hlt : (roundNat tie |x * 100| : ℚ) < (2701 : ℕ) := by push_cast; linarith
  rw [powerOf_eq, Nat.min_eq_left (Nat.le_of_lt_succ (Nat.cast_lt.mp hlt))]

theorem powerOf_of_ge (tie : TieRule) {x : ℚ} (h : 2700 ≤ |x * 100|) : powerOf tie x = 2700 := by
  obtain ⟨hlow, -⟩ := roundNat_bounds tie (abs_nonneg (x * 100))
  have hlt : ((2699 : ℕ) : ℚ) < (roundNat tie |x * 100| : ℚ) := by push_cast; linarith
  rw [powerOf_eq, Nat.min_eq_right (Nat.succ_le_of_lt (Nat.cast_lt.mp hlt))]

theorem powerOf_thirty (tie : TieRule) : powerOf tie 30 = 2700 :=
  powerOf_of_ge tie (by norm_num [abs])

/-- A whole number of centi-dBm is its own nearest integer. -/
theorem powerOf_neg_505 (tie : TieRule) : powerOf tie (-505 / 100) = 505 := by
  have hx : |(-505 / 100 : ℚ) * 100| = 505 := by norm_num [abs]
  obtain ⟨hlow, hhigh⟩ := roundNat_bounds tie (x := 505) (by norm_num)
  have hge : ((504 : ℕ) : ℚ) < (roundNat tie 505 : ℚ) := by push_cast; linarith
  have hle : (roundNat tie 505 : ℚ) < ((506 : ℕ) : ℚ) := by push_cast; linarith
  rw [powerOf_of_le tie (by rw [hx]; norm_num), hx]
  exact le_antisymm (Nat.le_of_lt_succ (Nat.cast_lt.mp hle)) (Nat.succ_le_of_lt (Nat.cast_lt.mp hge))

/-- Settles O55: the bounds of rounding on either side of the clamp, and the document's two examples. -/
theorem powerIsClampedMagnitude : Obligations.PowerIsClampedMagnitude := by
  intro tie
  refine ⟨fun x => ⟨?_, ?_, fun h => ?_, powerOf_of_ge tie⟩, powerOf_thirty tie, powerOf_neg_505 tie, ?_, ?_⟩
  · exact (powerOf_eq tie x).trans_le (Nat.min_le_right ..)
  · rw [powerOf_eq, powerOf_eq, neg_mul, abs_neg]
  · rw [powerOf_of_le tie h]
    exact abs_roundNat_sub_le tie (abs_nonneg _)
  · rw [powerPayload, powerOf_thirty]; decide
  · rw [powerPayload, powerOf_neg_505]; decide

end Sys2Proof.Machine
end

section
/-! The listener and the Tag Decoder (45_environment.md R140 to R149). -/
namespace Sys2Proof.Machine

/-- Class 6 is what none of the five classes before it takes (R141). -/
theorem classify_eq_tag_iff {p : HostParams} (hp : p.wellFormed = true) (v : ValidatedFrame) :
    classify p v = .tag ↔ v.opcode = p.opTagReport ∧ v.status = 0 ∧ v.n.toNat ≠ p.lenZeroTagMarker := by
  simp only [HostParams.wellFormed, Bool.and_eq_true, decide_eq_true_eq] at hp
  obtain ⟨⟨hmulti, hkeep⟩, -⟩ := hp
  unfold classify
  split_ifs with hecho hother hkeepAlive herror hzero
  · simp [hecho, hmulti]
  · simp [hother]
  · have hstatus : v.status ≠ 0 := hkeepAlive ▸ hkeep
    exact iff_of_false nofun fun h => hstatus h.2.1
  · exact iff_of_false nofun fun h => herror h.2.1
  · simp [hzero]
  · simpa using ⟨not_not.mp hother, not_not.mp herror, hzero⟩

theorem listen_ok (p : HostParams) (v : ValidatedFrame) :
    listen p (.ok v) = if classify p v = .tag then .onTag (decodeTag p v.frame) else .dropped := by
  rw [listen]
  cases classify p v <;> rfl

/-- Settles O56: `onTag` is invoked for class 6 alone. -/
theorem onlyTagReportsReachTheCaller : Obligations.OnlyTagReportsReachTheCaller := by
  intro p r hp
  cases r with
  | error e =>
    refine ⟨⟨?_, ?_⟩, .inl rfl⟩
    · rintro ⟨record, ⟨⟩⟩
    · rintro ⟨v, ⟨⟩, -⟩
  | ok v =>
    have hiff := classify_eq_tag_iff hp v
    rw [listen_ok]
    by_cases htag : classify p v = .tag
    · rw [if_pos htag]
      exact ⟨⟨fun _ => ⟨v, rfl, hiff.mp htag⟩, fun _ => ⟨_, rfl⟩⟩, .inr ⟨v, rfl, rfl⟩⟩
    · rw [if_neg htag]
      refine ⟨⟨?_, ?_⟩, .inl rfl⟩
      · rintro ⟨record, ⟨⟩⟩
      · rintro ⟨w, ⟨⟩, hw⟩
        exact absurd (hiff.mpr hw) htag

/-- The decoder on a frame whose RSSI and two bit counts can be read (R146 to R149). -/
theorem decodeTag_eq {p : HostParams} {f : ByteSeq} {rssi : Byte} {aux epc : Nat} (hr : f[12]? = some rssi)
    (ha : memRead f 24 2 = some aux) (he : memRead f 27 2 = some epc) :
    decodeTag p f =
      if p.epcTrim ≤ bytesOfBits epc ∧
          p.epcBase + bytesOfBits aux + (bytesOfBits epc - p.epcTrim) + 2 ≤ f.length then
        some { epc := slice f (p.epcBase + bytesOfBits aux)
                 (p.epcBase + bytesOfBits aux + (bytesOfBits epc - p.epcTrim)), rssi := rssi }
      else none := by
  simp only [decodeTag, hr, ha, he, crcBytes_eq]

theorem slice_add (s : ByteSeq) (i n : Nat) : slice s i (i + n) = (s.drop i).take n := by
  rw [slice, List.drop_take, Nat.add_sub_cancel_left]

/-- Settles O57: all that is left to decide is whether the frame is long enough. -/
theorem tagDecoderReadsItsOffsets : Obligations.TagDecoderReadsItsOffsets := by
  intro p f rssi auxHigh auxLow epcHigh epcLow hbase htrim hr hah hal heh hel dataBytes epcBytes hepc
  have hdecode := decodeTag_eq (p := p) hr (memRead_two f 24 auxHigh auxLow hah hal)
    (memRead_two f 27 epcHigh epcLow heh hel)
  rw [hbase, htrim, slice_add] at hdecode
  constructor
  · intro hlen
    exact hdecode.trans (if_pos ⟨hepc, hlen⟩)
  · intro hlen
    exact hdecode.trans (if_neg fun h => Nat.not_le.mpr hlen h.2)

end Sys2Proof.Machine
end

section
/-! The host's calls and deliveries (45_environment.md sections 1 to 3). Each of `hostCall` and `hostDeliver` has one
lemma that says what it can answer; the statements are read off these. -/
namespace Sys2Proof.Machine

/-- The host's state after a call has gone out (R139, R142). -/
def HostState.afterCall (h : HostState) : HostCall → HostState
  | .unary call => { h with outstanding := some call }
  | .startReading => { h with mode := .streaming, listener := true }

/-- What `hostCall` answers: one of the three refusals (R132, R143, R144), or the call goes out. -/
theorem hostCall_eq (p : HostParams) (h : HostState) (call : HostCall) :
    hostCall p h call =
      if h.ready = false then .error .notReady
      else if h.outstanding.isSome then .error .commandOutstanding
      else if h.mode = .streaming ∧ call ≠ .unary .stopReading then .error .streamingActive
      else .ok (h.afterCall call, call.command p) := by
  cases call with
  | startReading => simp [hostCall, HostState.afterCall]
  | unary call => cases call <;> simp [hostCall, HostState.afterCall]

/-- The host's preconditions of a call. -/
theorem hostCall_eq_ok_iff (p : HostParams) (h : HostState) (call : HostCall) (r : HostState × Instr) :
    hostCall p h call = .ok r ↔
      (h.ready = true ∧ h.outstanding = none ∧ (h.mode = .streaming → call = .unary .stopReading)) ∧
        r = (h.afterCall call, call.command p) := by
  rw [hostCall_eq]
  split_ifs with hready hout hmode
  · exact iff_of_false nofun fun ⟨⟨h', _⟩, _⟩ => by rw [hready] at h'; cases h'
  · exact iff_of_false nofun fun ⟨⟨_, h', _⟩, _⟩ => by rw [h'] at hout; cases hout
  · exact iff_of_false nofun fun ⟨⟨_, _, h'⟩, _⟩ => hmode.2 (h' hmode.1)
  · have hallowed : h.ready = true ∧ h.outstanding = none ∧ (h.mode = .streaming → call = .unary .stopReading) :=
      ⟨Bool.eq_true_of_not_eq_false hready, by simpa using hout, fun hm => by_contra fun hc => hmode ⟨hm, hc⟩⟩
    rw [Except.ok.injEq, and_iff_right hallowed, eq_comm]

/-- Settles O58, by the host's preconditions of a call. -/
theorem hostKeepsItsPreconditions : Obligations.HostKeepsItsPreconditions := by
  intro p h call
  refine ⟨⟨?_, fun hpre => ⟨_, _, (hostCall_eq_ok_iff p h call _).mpr ⟨hpre, rfl⟩⟩⟩, ?_⟩
  · rintro ⟨h', i, hok⟩
    exact ((hostCall_eq_ok_iff p h call _).mp hok).1
  · intro h' i hok
    exact congrArg Prod.snd ((hostCall_eq_ok_iff p h call _).mp hok).2

/-! The listener and the mode (R139, R142): a call or a delivery changes both together or neither. -/

theorem HostState.inv_afterCall {h : HostState} (hinv : h.Inv) (call : HostCall) : (h.afterCall call).Inv := by
  cases call with
  | unary call => exact hinv
  | startReading => exact iff_of_true rfl rfl

theorem HostState.inv_answered {h : HostState} (hinv : h.Inv) (call : UnaryCall) : (h.answered call).Inv := by
  by_cases hstop : call = .stopReading
  · rw [hstop]
    exact iff_of_false nofun nofun
  · rw [h.answered_of_ne call hstop]
    exact hinv

theorem inv_correlate {h : HostState} (hinv : h.Inv) (p : HostParams) (call : UnaryCall) (r : ValResult) :
    HostState.Inv (correlate p h call r).1 := by
  cases r with
  | ok v => exact HostState.inv_answered hinv call
  | error e => exact hinv

theorem inv_hostDeliver {h : HostState} (hinv : h.Inv) (p : HostParams) (choice : DrainChoice) (r : ValResult) :
    HostState.Inv (hostDeliver p h choice r).1 := by
  unfold hostDeliver
  split
  · exact inv_correlate hinv p _ r
  · exact hinv
  · exact hinv
  · cases choice with
    | toCorrelator => exact inv_correlate hinv p _ r
    | toListener | dropped => exact hinv

/-- The Correlator takes the frame, alone or by choice. -/
theorem hostDeliver_toCorrelator (p : HostParams) {h : HostState} {call : UnaryCall} (hout : h.outstanding = some call)
    (r : ValResult) : hostDeliver p h .toCorrelator r = correlate p h call r := by
  unfold hostDeliver
  rw [hout]
  cases h.listener <;> rfl

theorem hostDeliver_of_not_listener (p : HostParams) {h : HostState} {call : UnaryCall}
    (hout : h.outstanding = some call) (hl : h.listener = false) (choice : DrainChoice) (r : ValResult) :
    hostDeliver p h choice r = correlate p h call r := by
  unfold hostDeliver
  rw [hout, hl]

/-- Settles O59: the start, the ready signal, every call and every delivery, and the stop's acknowledgement. -/
theorem listenerFollowsTheMode : Obligations.ListenerFollowsTheMode := by
  refine ⟨iff_of_false nofun nofun, fun _ hinv => hinv, fun p h h' call i hinv hok => ?_,
    fun p h choice r hinv => inv_hostDeliver hinv p choice r, fun p h v hout => ?_⟩
  · cases ((hostCall_eq_ok_iff p h call _).mp hok).2
    exact HostState.inv_afterCall hinv call
  · rw [hostDeliver_toCorrelator p hout]
    exact ⟨rfl, rfl, rfl⟩

theorem powerDecode_be16 (high low : Byte) :
    powerDecode (be16 high low) = ((high.toNat * 256 + low.toNat : ℕ) : ℚ) / 100 := by
  rw [powerDecode_eq, be16_toNat]

/-- Settles O60: with no listener the Correlator takes the frame, and a power reply's two bytes are read big-endian. -/
theorem nextFrameAnswersTheCommand : Obligations.NextFrameAnswersTheCommand := by
  constructor
  · intro p h choice call hout hstop hl
    refine ⟨fun v => ?_, fun e => hostDeliver_of_not_listener p hout hl choice _⟩
    rw [hostDeliver_of_not_listener p hout hl, correlate, h.answered_of_ne call hstop]
  · intro p payload high low
    rw [← powerDecode_be16]
    exact ⟨fun hh hl => congrArg (Option.map Reply.power) (decodePower_eq payload _ high low hh hl),
      fun hh hl => congrArg (Option.map Reply.power) (decodePower_eq payload _ high low hh hl)⟩

end Sys2Proof.Machine
end
